-- ==== Sys2Proof/Word.lean ====
section
/-! DEFINITION. The block's words: bytes, 16-bit keycodes and the frame-slot index (00_scope.md R8, 10_state.md R22). -/

namespace Sys2Proof

/-- A byte, an unsigned integer 0..255 (R8). Addition wraps modulo 256 (R91 a). -/
abbrev Byte := BitVec 8

/-- A keycode, an unsigned integer 0..65535 (R8). -/
abbrev Keycode := BitVec 16

/-- A frame position, and the values of IDX: 0, 1, 2, 3, 4 and never 5, 6, 7 (R22). -/
abbrev Idx := Fin 5

end Sys2Proof
end

