-- ==== Sys2Proof/Config.lean ====
section
/-! DEFINITION. The configuration record of 00_scope.md R6 with the checks it must meet, and the one free value the
spec leaves (BUF after RESET, 10_state.md R32). The record's value for this hardware is in Machine/Params.lean. -/

namespace Sys2Proof

/-- The parameters of R6. `role` is no field: it is the run-time input of RESET. -/
structure Params where
  frameLen    : Nat
  preamble    : Byte
  keycodeBits : Nat
  byteBits    : Nat
  cksumMod    : Nat
  stdMin      : Keycode
  stdMax      : Keycode
  nullLo      : Keycode
  nullHi      : Keycode
  bandSize    : Nat
  bandStart   : Keycode
  bandEnd     : Keycode
  deriving DecidableEq, Repr

/-- The constraints R6 asks a configuration record to check, and that the widths are those of `Byte` and `Keycode`, that
the standard range lies between the two sentinels, and that a standard key's high byte is 0, as its rows have it (D10). -/
def Params.check (p : Params) : Bool :=
  p.frameLen == 5
    && (p.keycodeBits == 16 && p.byteBits == 8 && p.cksumMod == 2 ^ p.byteBits)
    && (p.bandStart.toNat + p.bandSize - 1 == p.bandEnd.toNat && p.bandEnd.toNat == 2 ^ p.keycodeBits - 1)
    && (decide (p.stdMax < p.nullHi) && decide (p.nullHi < p.bandStart))
    && (p.nullLo.toNat + 1 == p.stdMin.toNat && p.stdMax.toNat + 1 == p.nullHi.toNat && decide (p.nullHi.toNat < 2 ^ p.byteBits))

/-- FREE VALUE (log entry 1): the byte RESET leaves in a position of BUF, "unspecified" in R32 and R211. It is a function
of how many RESETs came before and of the position, and has no body: nothing can be proved of its value. -/
opaque Config.freeByte (draw position : Nat) : Byte

end Sys2Proof
end

