-- ==== Sys2Proof/Machine/Params.lean ====
section
/-! DEFINITION. The value of the configuration record for this hardware (00_scope.md R6), and its hardwired constants
under their names (10_state.md R25). -/

namespace Sys2Proof.Machine

/-- The value column of R6. PREAMBLE is decision D2, BAND_START decision D3 (90_conflicts.md C1): log entry 2. -/
def params : Params where
  frameLen    := 5
  preamble    := 0x69#8
  keycodeBits := 16
  byteBits    := 8
  cksumMod    := 256
  stdMin      := 0x0001#16
  stdMax      := 0x00FE#16
  nullLo      := 0x0000#16
  nullHi      := 0x00FF#16
  bandSize    := 16
  bandStart   := 0xFFF0#16
  bandEnd     := 0xFFFF#16

/-- PREAMBLE (R25). -/
def preambleByte : Byte := params.preamble

/-- NULL_LO (R25). -/
def nullLo : Keycode := params.nullLo

/-- NULL_HI (R25). -/
def nullHi : Keycode := params.nullHi

/-- BAND_START (R25). -/
def bandStart : Keycode := params.bandStart

/-- BAND_END (R25). -/
def bandEnd : Keycode := params.bandEnd

end Sys2Proof.Machine
end

