-- ==== Sys2Proof/Syntax.lean ====
section
/-! DEFINITION. The syntax: roles, frames, and `Instr` with one constructor per row of spec/opcode_table.json. -/

namespace Sys2Proof

/-- The two roles (R24, R195). "auto" is resolved outside the block (90_conflicts.md C9). -/
inductive Role where
  | master
  | slave
  deriving DecidableEq, Repr

/-- Five bytes in wire order, the positions named as in R21 and R51: a frame on the wire, or the frame slot BUF. -/
structure Frame where
  preamble : Byte
  kcLo     : Byte
  kcHi     : Byte
  pressed  : Byte
  cksum    : Byte
  deriving DecidableEq, Repr

/-- The operations and encoded rows of the opcode table. Operands are the free parts of a row's pattern: a checksum byte
that the row's constraint determines is no operand. -/
inductive Instr where
  /-- FRAME: the generic 5-byte frame as DECODE parses it, byte 0 the preamble (R103). -/
  | frame (kcLo kcHi pressed cksum : Byte)
  /-- FRAME.STD_PRESS: a valid frame of a standard key, PRESSED not 0 (R67 row 3, R159). -/
  | frameStdPress (kcLo pressed : Byte)
  /-- FRAME.STD_RELEASE: a valid frame of a standard key, PRESSED 0 (R67 row 4, R159). -/
  | frameStdRelease (kcLo : Byte)
  /-- FRAME.MACRO: a valid frame of macro code BAND_START + n (R67 row 5, R160). n is the table's field nnnn, as wide as a
  keycode so that BAND_START and BAND_SIZE stay parameters (R6). -/
  | frameMacro (n : Keycode) (pressed : Byte)
  /-- FRAME.INVALID_KC: a valid frame of a keycode in neither range (R67 row 6, R161). -/
  | frameInvalidKc (kcLo kcHi pressed : Byte)
  /-- FRAME.BADSUM: byte 0 right, byte 4 not the checksum (R67 row 2, R158). -/
  | frameBadsum (kcLo kcHi pressed cksum : Byte)
  /-- FRAME.BADPRE: byte 0 not the preamble (R67 row 1, R162). -/
  | frameBadpre (first kcLo kcHi pressed cksum : Byte)
  /-- BYTE.SOF: the preamble byte at IDX = 0 (R122). -/
  | byteSof
  /-- BYTE.HUNT_DISCARD: any other byte at IDX = 0 (R121). -/
  | byteHuntDiscard (b : Byte)
  /-- BYTE.DATA: a byte at IDX in 1..3 (R123). -/
  | byteData (b : Byte)
  /-- BYTE.LAST: the byte at IDX = 4 (R124). -/
  | byteLast (b : Byte)
  /-- CHECKSUM8 (R90). -/
  | checksum8 (xs : List Byte)
  /-- ENCODE (R100). -/
  | encode (k : Keycode) (p : Bool)
  /-- DECODE (R103). -/
  | decode (f : Frame)
  /-- CLASSIFY (R140). -/
  | classify (c : Keycode)
  /-- RXBYTE (R120). -/
  | rxbyte (b : Byte)
  /-- FRAMEDONE (R157). -/
  | framedone
  /-- TICK.MASTER: the event Tick as a Master takes it (R151). -/
  | tickMaster
  /-- TICK.SLAVE: the event Tick as a Slave takes it (R152). -/
  | tickSlave
  /-- KEYEVT.SLAVE: the event KeyEvt as a Slave takes it (R153). -/
  | keyevtSlave (k : Keycode) (p : Bool)
  /-- KEYEVT.MASTER: the event KeyEvt as a Master takes it (R154). -/
  | keyevtMaster (k : Keycode) (p : Bool)
  /-- RESET (R211). -/
  | reset (r : Role)
  deriving DecidableEq, Repr

end Sys2Proof
end

