-- ==== Sys2Proof/Machine/Operands.lean ====
section
/-! DEFINITION. Operand assembly (30_encoding.md R61 to R65): the frame slot's registers, the keycode and its two bytes,
the pressed flag and its byte, the checksum byte, and the 40-bit word of a frame. -/

namespace Sys2Proof.Machine

/-- Register BUF[i] of a frame slot (R21). -/
def slotGet (f : Frame) (i : Idx) : Byte :=
  match i with
  | 0 => f.preamble
  | 1 => f.kcLo
  | 2 => f.kcHi
  | 3 => f.pressed
  | 4 => f.cksum

/-- Writing BUF[i] changes no other register (R21). -/
def slotSet (f : Frame) (i : Idx) (v : Byte) : Frame :=
  match i with
  | 0 => { f with preamble := v }
  | 1 => { f with kcLo := v }
  | 2 => { f with kcHi := v }
  | 3 => { f with pressed := v }
  | 4 => { f with cksum := v }

/-- The five bytes in wire order, byte 0 first (R42). -/
def frameBytes (f : Frame) : List Byte :=
  [f.preamble, f.kcLo, f.kcHi, f.pressed, f.cksum]

/-- KC_LO, the keycode's bits 7..0 (R41, R63). -/
def keycodeLo (k : Keycode) : Byte :=
  k.extractLsb' 0 8

/-- KC_HI, the keycode's bits 15..8 (R41, R63). -/
def keycodeHi (k : Keycode) : Byte :=
  k.extractLsb' 8 8

/-- The keycode of two frame bytes: KC_HI * 256 + KC_LO, both zero-extended (R41, R63). -/
def keycodeOf (lo hi : Byte) : Keycode :=
  hi.setWidth 16 * 256#16 + lo.setWidth 16

/-- The pressed flag widened to a byte: 0x01 or 0x00 (R44, R64). -/
def pressedByte (p : Bool) : Byte :=
  if p then 0x01#8 else 0x00#8

/-- The pressed byte narrowed to a flag: every value but 0x00 is pressed (R44, R64). -/
def pressedFlag (b : Byte) : Bool :=
  b != 0x00#8

/-- CHECKSUM8: an 8-bit accumulator from 0, each byte added modulo 256 (R90). -/
def checksum8 (xs : List Byte) : Byte :=
  xs.foldl (fun acc x => acc + x) 0x00#8

/-- The checksum over frame bytes 0..3, the preamble as received included (R65, R104). -/
def frameSum (f : Frame) : Byte :=
  checksum8 [f.preamble, f.kcLo, f.kcHi, f.pressed]

/-- The frame with the given bytes 1..3, the constant preamble and the checksum that makes it valid (R62, R65). -/
def sealedFrame (lo hi pressed : Byte) : Frame :=
  { preamble := preambleByte, kcLo := lo, kcHi := hi, pressed := pressed,
    cksum := checksum8 [preambleByte, lo, hi, pressed] }

/-- The code of macro number n + 1: BAND_START + n (R142, the table's field nnnn). -/
def macroCode (n : Keycode) : Keycode :=
  bandStart + n

/-- How far a code lies above BAND_START: the n of `macroCode` (R142). -/
def macroOffset (c : Keycode) : Keycode :=
  c - bandStart

/-- The 40-bit word W of a frame, byte 0 most significant (R61, D19). -/
def frameWord (f : Frame) : Nat :=
  f.preamble.toNat * 2 ^ 32 + f.kcLo.toNat * 2 ^ 24 + f.kcHi.toNat * 2 ^ 16 + f.pressed.toNat * 2 ^ 8 + f.cksum.toNat

/-- The frame of a 40-bit word W (R61, D19). -/
def frameOfWord (w : Nat) : Frame :=
  { preamble := BitVec.ofNat 8 (w / 2 ^ 32), kcLo := BitVec.ofNat 8 (w / 2 ^ 24),
    kcHi := BitVec.ofNat 8 (w / 2 ^ 16), pressed := BitVec.ofNat 8 (w / 2 ^ 8), cksum := BitVec.ofNat 8 w }

end Sys2Proof.Machine
end

