-- ==== Sys2Proof/Machine/Flags.lean ====
section
/-! DEFINITION. The block has no status flags or condition codes (10_state.md R26). What it computes in their place are the
tests below, each made and used within one operation and stored nowhere. -/

namespace Sys2Proof.Machine

/-- The preamble test of RXBYTE at IDX = 0 and of DECODE (R62, R68). -/
def isPreamble (b : Byte) : Bool :=
  b == preambleByte

/-- The checksum test of DECODE (R65, R103). -/
def cksumMatches (f : Frame) : Bool :=
  frameSum f == f.cksum

/-- A valid frame: DECODE succeeds exactly on these (R66). -/
def isValidFrame (f : Frame) : Bool :=
  isPreamble f.preamble && cksumMatches f

/-- A canonical frame: valid, and PRESSED 0x00 or 0x01 (R66). -/
def isCanonicalFrame (f : Frame) : Bool :=
  isValidFrame f && (f.pressed == 0x00#8 || f.pressed == 0x01#8)

/-- The two sentinel codes (R140, first test). -/
def isNullCode (c : Keycode) : Bool :=
  c == nullLo || c == nullHi

/-- Strictly between the sentinels (R140, second test). -/
def isStandardCode (c : Keycode) : Bool :=
  decide (nullLo < c) && decide (c < nullHi)

/-- In the macro band (R140, third test). -/
def isMacroCode (c : Keycode) : Bool :=
  decide (bandStart ≤ c) && decide (c ≤ bandEnd)

end Sys2Proof.Machine
end

