-- ==== Sys2Proof/Machine/Codec.lean ====
section
/-! DEFINITION. The pure functions ENCODE and DECODE (41_frame_codec.md) and CLASSIFY (43_classifier.md), with their result types. -/

namespace Sys2Proof.Machine

/-- What DECODE returns (R103). -/
inductive DecodeResult where
  | ok (k : Keycode) (p : Bool)
  | preambleMismatch
  | checksumMismatch
  deriving DecidableEq, Repr

/-- What CLASSIFY returns (R140, D25). The index is 1..16 (R142). -/
inductive KeyClass where
  | invalid
  | standardKey
  | remoteMacro (n : Nat)
  deriving DecidableEq, Repr

/-- ENCODE(k, p) (R100). It rejects no keycode (R101). -/
def encodeFrame (k : Keycode) (p : Bool) : Frame :=
  sealedFrame (keycodeLo k) (keycodeHi k) (pressedByte p)

/-- DECODE(f): the preamble test first, then the checksum test (R103, R104). It does not classify. -/
def decodeFrame (f : Frame) : DecodeResult :=
  if !isPreamble f.preamble then .preambleMismatch
  else if !cksumMatches f then .checksumMismatch
  else .ok (keycodeOf f.kcLo f.kcHi) (pressedFlag f.pressed)

/-- CLASSIFY(c), the four tests in the order of R140. -/
def classify (c : Keycode) : KeyClass :=
  if isNullCode c then .invalid
  else if isStandardCode c then .standardKey
  else if isMacroCode c then .remoteMacro (c.toNat - bandStart.toNat + 1)
  else .invalid

/-- The keycodes a Slave sends and a Master delivers: StandardKey or RemoteMacro (R145). -/
def isDeliverable (c : Keycode) : Bool :=
  match classify c with
  | .invalid => false
  | .standardKey => true
  | .remoteMacro _ => true

end Sys2Proof.Machine
end

