-- ==== Sys2Proof/Machine/State.lean ====
section
/-! DEFINITION. The state: the block's architectural triple (10_state.md R20), the environment state the block meets through
its interfaces (R28, R29, R30), and the model's own draw counter. Plain data. -/

namespace Sys2Proof.Machine

/-- What the diagnostic sink is told (R29, R181). -/
inductive Diag where
  | syncError (b : Byte)
  | checksumMismatch (f : Frame) (computed received : Byte)
  deriving DecidableEq, Repr

/-- The output actions, each one call on a collaborator (R29). -/
inductive Action where
  | tx (b : Byte)
  | diag (d : Diag)
  | raiseKeyEvent (k : Keycode) (p : Bool)
  | assertKey (k : Keycode)
  | releaseKey (k : Keycode)
  deriving DecidableEq, Repr

/-- What a pure function returns to its caller (R73). -/
inductive Value where
  | byte (b : Byte)
  | frame (f : Frame)
  | decoded (r : DecodeResult)
  | keyClass (c : KeyClass)
  deriving DecidableEq, Repr

/-- The input events (R30). -/
inductive Event where
  | reset (r : Role)
  | tick
  | keyEvt (k : Keycode) (p : Bool)
  deriving DecidableEq, Repr

/-- One line of the environment's schedule (R53 a, R80): an event, an arrival of bytes, or one of the other operations
of R4 applied on its own (log entry 8). -/
inductive Input where
  /-- An input event of R30. -/
  | event (e : Event)
  /-- The transport appends bytes to RXQ; no operation of the block runs (R80, R200). -/
  | arrive (bs : List Byte)
  /-- One stream byte handed to the receiver, decoded by IDX (R68). -/
  | byte (b : Byte)
  /-- Five bytes handed to the frame decoder, decoded by the map of R67. -/
  | frame (f : Frame)
  /-- An operation applied directly with its operands (R73). -/
  | apply (i : Instr)
  deriving DecidableEq, Repr

/-- The complete architectural state of one instance (R20). -/
structure Block where
  /-- ROLE (R24). -/
  role : Role
  /-- IDX (R22). -/
  idx  : Idx
  /-- BUF[0..4] (R21). -/
  buf  : Frame
  deriving DecidableEq, Repr

/-- The machine: the block and its environment. -/
structure State where
  /-- The block's state; none before the first RESET, where "the state is undefined" (R32, R212). -/
  block    : Option Block
  /-- RXQ, bytes received by the transport and not yet read, oldest first (R28 a). -/
  rxq      : List Byte
  /-- The environment's schedule of inputs, next first (R53 a). -/
  inputs   : List Input
  /-- The concatenated output trace, the collaborators' calls in order (R12, R29). No operation reads it. -/
  trace    : List Action
  /-- The values the pure functions have returned, in order. No operation reads it. -/
  returned : List Value
  /-- The model's own: how many RESETs have drawn a free value for BUF (log entry 1). -/
  draws    : Nat
  deriving DecidableEq, Repr

/-- There is no fault: "No error is fatal" (R180), "Nothing halts the block" (R189), decision D16. -/
inductive Fault where
  deriving DecidableEq, Repr

/-- Why the model refuses. -/
inductive Refusal where
  /-- Raised by exec for an instruction without a meaning; no arm raises it. Safe. -/
  | notModelled (mnemonic : String)
  /-- Raised by every operation but RESET before the first RESET: "no operation may be applied" (R32, R212, U7). Safe. -/
  | beforeReset
  deriving DecidableEq, Repr

/-- The block right after RESET(r), with 0x00 in every position of BUF: the value R32 suggests where it gives none (log entry 1). -/
def Block.afterReset (r : Role) : Block :=
  { role := r, idx := 0, buf := ⟨0x00#8, 0x00#8, 0x00#8, 0x00#8, 0x00#8⟩ }

/-- A machine whose block has just been RESET into role r, with nothing received, scheduled or emitted. -/
def State.afterReset (r : Role) : State :=
  { block := some (Block.afterReset r), rxq := [], inputs := [], trace := [], returned := [], draws := 0 }

/-- The machine right after reset (R32). The role is RESET's argument and has no default (R212): the model names Master,
the role that runs the receiver (log entry 3). -/
def State.reset : State :=
  State.afterReset .master

/-- The machine before the first RESET (R212): the block has no state. -/
def State.powerOn : State :=
  { State.reset with block := none }

end Sys2Proof.Machine
end

