-- ==== Sys2Proof/Machine/Ops.lean ====
section
/-! DEFINITION. The shared operations: state updates, raising an error, the two gates (before RESET, and the receiver's role),
the receiver's transitions and its loop, the frame dispatch and the transmitter. -/

namespace Sys2Proof.Machine

/-- The three outcomes at this machine's types. -/
abbrev Result := Host.Outcome State Fault Refusal

/-- Install the block's new state. -/
def State.withBlock (s : State) (k : Block) : State :=
  { s with block := some k }

/-- Append output actions to the trace, in the order they are emitted (R9, `emit`). -/
def State.emit (s : State) (as : List Action) : State :=
  { s with trace := s.trace ++ as }

/-- Hand a pure function's result to its caller (R26, R31: it is stored nowhere in the block). -/
def State.answer (s : State) (v : Value) : State :=
  { s with returned := s.returned ++ [v] }

/-- The transport appends received bytes to RXQ, in arrival order (R28 a, R200). -/
def State.receive (s : State) (bs : List Byte) : State :=
  { s with rxq := s.rxq ++ bs }

/-- RXQ after a drain: every byte has been removed by RxRead (R46, R151). -/
def State.emptied (s : State) : State :=
  { s with rxq := [] }

/-- The schedule moves on to the rest. -/
def State.schedule (s : State) (rest : List Input) : State :=
  { s with inputs := rest }

/-- `raise E(info)`, the whole of "taking an exception" here: one diagnostic, and control goes nowhere (R9, R186).
There is no return from it (R187): the raising rule sets IDX itself. -/
def raise (d : Diag) : List Action :=
  [.diag d]

/-- `BUF[IDX] <- b` (R9, R21). -/
def Block.store (k : Block) (b : Byte) : Block :=
  { k with buf := slotSet k.buf k.idx b }

/-- `IDX <- i` (R9, R22). -/
def Block.goto (k : Block) (i : Idx) : Block :=
  { k with idx := i }

/-- An operation that needs the block's state is refused before the first RESET (R212, U7). -/
def onBlock (s : State) (f : Block → Result) : Result :=
  match s.block with
  | none => .refused .beforeReset
  | some k => f k

/-- The receiver's gate: a Master takes the step; a Slave "never reads RXQ, and never changes IDX or BUF" (R150), so what
is handed to its receiver is ignored, not trapped (R195; log entry 5). -/
def onReceiver (s : State) (f : Block → Block × List Action) : Result :=
  onBlock s fun k =>
    match k.role, f k with
    | .slave, _ => .next s
    | .master, (k', as) => .next ((s.withBlock k').emit as)

/-- A pure function returns a value and does nothing else. -/
def returning (s : State) (v : Value) : Result :=
  onBlock s fun _ => .next (s.answer v)

/-- FRAMEDONE's actions on the five bytes of the slot: DECODE, then on success CLASSIFY and dispatch (R157, arms R158 to R162). -/
def frameActions (f : Frame) : List Action :=
  match decodeFrame f with
  | .checksumMismatch => raise (.checksumMismatch f (frameSum f) f.cksum)
  | .preambleMismatch => raise (.syncError f.preamble)
  | .ok k p =>
    match classify k with
    | .standardKey => if p then [.assertKey k] else [.releaseKey k]
    | .remoteMacro _ => [.raiseKeyEvent k p]
    | .invalid => []

/-- RXBYTE(b), the four branches of R120: hunt without match (R121), hunt with match (R122), accumulate (R123), complete
(R124: store, then FRAMEDONE on the slot, then IDX to 0 whatever it found). -/
def rxByte (b : Byte) (k : Block) : Block × List Action :=
  if k.idx = 0 ∧ isPreamble b = false then (k, raise (.syncError b))
  else if k.idx = 0 then ((k.store b).goto 1, [])
  else if k.idx < 4 then ((k.store b).goto (k.idx + 1), [])
  else (((k.store b).goto 0), frameActions (k.store b).buf)

/-- TICK's loop on a Master with RXQ as given: an empty queue ends it (`RxAvail()` is false), otherwise the head is taken
(`RxRead()`) and given to RXBYTE (R151, R155). -/
def drain : List Byte → Block → Block × List Action
  | [], k => (k, [])
  | b :: rest, k =>
    match rxByte b k with
    | (k₁, as) =>
      match drain rest k₁ with
      | (k₂, later) => (k₂, as ++ later)

/-- The event Tick: a Master drains RXQ, a Slave does nothing and does not look at it (R150 to R152). -/
def tick (s : State) : Result :=
  onBlock s fun k =>
    match k.role, drain s.rxq k with
    | .slave, _ => .next s
    | .master, (k', as) => .next ((s.emptied.withBlock k').emit as)

/-- Five TxWrite calls, byte 0 first (R42, R47, R153). -/
def txFrame (f : Frame) : List Action :=
  (frameBytes f).map .tx

/-- The event KeyEvt(k, p): a Slave sends one frame for a deliverable keycode, a Master does nothing (R150, R153, R154). -/
def keyEvt (k : Keycode) (p : Bool) (s : State) : Result :=
  onBlock s fun blk =>
    match blk.role with
    | .master => .next s
    | .slave => if isDeliverable k then .next (s.emit (txFrame (encodeFrame k p))) else .next s

/-- The BUF that RESET leaves: unspecified (R211, R32), so a free value per RESET (log entry 1). -/
def freeBuf (draw : Nat) : Frame :=
  ⟨Config.freeByte draw 0, Config.freeByte draw 1, Config.freeByte draw 2, Config.freeByte draw 3, Config.freeByte draw 4⟩

end Sys2Proof.Machine
end

