-- ==== Sys2Proof/WellFormed.lean ====
section
/-! DEFINITION. Well-formedness of an instruction: the constraint column of spec/opcode_table.json on a row's own bits.
Constraints on the state (IDX) are the decoder's. -/

namespace Sys2Proof

open Sys2Proof.Machine

/-- A standard key's low byte, the high byte being 0x00: one that CLASSIFY calls StandardKey (R67 rows 3 and 4). -/
def wfStdLo (lo : Byte) : Bool :=
  classify (keycodeOf lo 0x00#8) == .standardKey

/-- FRAME.MACRO asks for one of the BAND_SIZE codes of the band (R6, R67 row 5). -/
def wfMacroOffset (n : Keycode) : Bool :=
  decide (n.toNat < params.bandSize)

/-- FRAME.STD_PRESS asks for PRESSED not 0 (R67 row 3). -/
def wfPressed (p : Byte) : Bool :=
  p != 0x00#8

/-- FRAME.INVALID_KC asks for a keycode CLASSIFY calls Invalid (R67 row 6). -/
def wfInvalidKc (lo hi : Byte) : Bool :=
  classify (keycodeOf lo hi) == .invalid

/-- FRAME.BADSUM asks for a checksum byte that is wrong (R67 row 2). -/
def wfBadsum (lo hi p c : Byte) : Bool :=
  c != checksum8 [preambleByte, lo, hi, p]

/-- FRAME.BADPRE and BYTE.HUNT_DISCARD ask for a byte that is not PREAMBLE (R67 row 1, R68). -/
def wfNotPreamble (b : Byte) : Bool :=
  !isPreamble b

/-- The row's constraint holds of its operands. -/
def Instr.wf : Instr → Bool
  | .frame _ _ _ _ => true
  | .frameStdPress lo p => wfStdLo lo && wfPressed p
  | .frameStdRelease lo => wfStdLo lo
  | .frameMacro n _ => wfMacroOffset n
  | .frameInvalidKc lo hi _ => wfInvalidKc lo hi
  | .frameBadsum lo hi p c => wfBadsum lo hi p c
  | .frameBadpre first _ _ _ _ => wfNotPreamble first
  | .byteSof => true
  | .byteHuntDiscard b => wfNotPreamble b
  | .byteData _ => true
  | .byteLast _ => true
  | .checksum8 _ => true
  | .encode _ _ => true
  | .decode _ => true
  | .classify _ => true
  | .rxbyte _ => true
  | .framedone => true
  | .tickMaster => true
  | .tickSlave => true
  | .keyevtSlave _ _ => true
  | .keyevtMaster _ _ => true
  | .reset _ => true

end Sys2Proof
end

