-- ==== Sys2Proof/Machine/Bytes.lean ====
section
/-! DEFINITION. The meanings of the four BYTE.* rows, from the effect column of the table and R121 to R124, and of RXBYTE
(R120). They are a Master's. A byte met at a position, or with a value, that its row's constraint does not admit is what RXBYTE
makes of it there (log entry 6); the decoder never gives such a row. -/

namespace Sys2Proof.Machine

/-- BYTE.SOF at IDX = 0: `BUF[0] <- 0x69; IDX <- 1` (R122). -/
def execByteSof (s : State) : Result :=
  onReceiver s fun k =>
    if k.idx = 0 then ({ k with buf := slotSet k.buf 0 preambleByte, idx := 1 }, []) else rxByte preambleByte k

/-- BYTE.HUNT_DISCARD at IDX = 0: one SyncError, nothing stored (R121). -/
def execByteHuntDiscard (b : Byte) (s : State) : Result :=
  onReceiver s fun k =>
    if k.idx = 0 ∧ (Instr.byteHuntDiscard b).wf then (k, raise (.syncError b)) else rxByte b k

/-- BYTE.DATA at IDX in 1..3: `BUF[IDX] <- b; IDX <- IDX + 1` (R123). -/
def execByteData (b : Byte) (s : State) : Result :=
  onReceiver s fun k =>
    if k.idx = 1 ∨ k.idx = 2 ∨ k.idx = 3 then ({ k with buf := slotSet k.buf k.idx b, idx := k.idx + 1 }, [])
    else rxByte b k

/-- BYTE.LAST at IDX = 4: `BUF[4] <- b`, FRAMEDONE on the five bytes, `IDX <- 0` (R124). -/
def execByteLast (b : Byte) (s : State) : Result :=
  onReceiver s fun k =>
    if k.idx = 4 then ({ k with buf := { k.buf with cksum := b }, idx := 0 }, frameActions { k.buf with cksum := b })
    else rxByte b k

/-- RXBYTE(b) (R120). -/
def execRxbyte (b : Byte) (s : State) : Result :=
  onReceiver s (rxByte b)

end Sys2Proof.Machine
end

