-- ==== Sys2Proof/Machine/Dispatcher.lean ====
section
/-! DEFINITION. The meanings of FRAMEDONE, of the events Tick and KeyEvt in their two roles, and of RESET (44_dispatcher.md,
70_reset_and_hazards.md). Tick and KeyEvt read ROLE themselves (R24): a row's role is what the decoder found. -/

namespace Sys2Proof.Machine

/-- FRAMEDONE(): the actions for BUF[0..4]; it writes no state, the caller sets IDX (R157; log entry 7). R157 performs it at
IDX = 4 only. Applied on its own at another IDX it acts on all of BUF as it stands, stale or unspecified bytes included:
DESIGN CHOICE, log entry 18. -/
def execFramedone (s : State) : Result :=
  onReceiver s fun k => (k, frameActions k.buf)

/-- TICK as a Master takes it (R151). -/
def execTickMaster (s : State) : Result :=
  tick s

/-- TICK as a Slave takes it (R152). -/
def execTickSlave (s : State) : Result :=
  tick s

/-- KEYEVT(k, p) as a Slave takes it (R153). -/
def execKeyevtSlave (k : Keycode) (p : Bool) (s : State) : Result :=
  keyEvt k p s

/-- KEYEVT(k, p) as a Master takes it (R154). -/
def execKeyevtMaster (k : Keycode) (p : Bool) (s : State) : Result :=
  keyEvt k p s

/-- RESET(role): the role installed, IDX 0, BUF unspecified, nothing emitted, the transport untouched; before or after any
earlier RESET (R211, R213). -/
def execReset (r : Role) (s : State) : Result :=
  .next { s with block := some { role := r, idx := 0, buf := freeBuf s.draws }, draws := s.draws + 1 }

end Sys2Proof.Machine
end

