-- ==== Sys2Proof/Machine/Frames.lean ====
section
/-! DEFINITION. The meanings of the six FRAME.* rows, from the effect column of the table and the map of R67: one action at
most, then IDX is 0; BUF keeps its bytes (R21). They are a Master's. A row whose constraint its operands do not meet is the
frame its bytes are, and FRAMEDONE's rule says what that frame does (log entry 6); the decoder never gives such a row. -/

namespace Sys2Proof.Machine

/-- The frame's action, then `IDX <- 0` (R67: "In every row IDX becomes 0 afterwards"). -/
def completes (as : List Action) (k : Block) : Block × List Action :=
  (k.goto 0, as)

/-- FRAME.STD_PRESS: `AssertKey(k)` with the 16-bit keycode (R159, D10). -/
def execFrameStdPress (lo p : Byte) (s : State) : Result :=
  onReceiver s (completes
    (if (Instr.frameStdPress lo p).wf then [.assertKey (keycodeOf lo 0x00#8)] else frameActions (sealedFrame lo 0x00#8 p)))

/-- FRAME.STD_RELEASE: `ReleaseKey(k)` (R159, D10). -/
def execFrameStdRelease (lo : Byte) (s : State) : Result :=
  onReceiver s (completes
    (if (Instr.frameStdRelease lo).wf then [.releaseKey (keycodeOf lo 0x00#8)]
     else frameActions (sealedFrame lo 0x00#8 0x00#8)))

/-- FRAME.MACRO: `RaiseKeyEvent(k, p)` with the full keycode, not the index (R160, R146). -/
def execFrameMacro (n : Keycode) (p : Byte) (s : State) : Result :=
  onReceiver s (completes
    (if (Instr.frameMacro n p).wf then [.raiseKeyEvent (macroCode n) (pressedFlag p)]
     else frameActions (sealedFrame (keycodeLo (macroCode n)) (keycodeHi (macroCode n)) p)))

/-- FRAME.INVALID_KC: silently dropped (R161). -/
def execFrameInvalidKc (lo hi p : Byte) (s : State) : Result :=
  onReceiver s (completes
    (if (Instr.frameInvalidKc lo hi p).wf then [] else frameActions (sealedFrame lo hi p)))

/-- FRAME.BADSUM: one ChecksumMismatch diagnostic with the five bytes, the computed and the received checksum (R158). -/
def execFrameBadsum (lo hi p c : Byte) (s : State) : Result :=
  onReceiver s (completes
    (if (Instr.frameBadsum lo hi p c).wf then
       raise (.checksumMismatch ⟨preambleByte, lo, hi, p, c⟩ (preambleByte + lo + hi + p) c)
     else frameActions ⟨preambleByte, lo, hi, p, c⟩))

/-- FRAME.BADPRE: one SyncError diagnostic with byte 0 (R162, D8). -/
def execFrameBadpre (first lo hi p c : Byte) (s : State) : Result :=
  onReceiver s (completes
    (if (Instr.frameBadpre first lo hi p c).wf then raise (.syncError first) else frameActions ⟨first, lo, hi, p, c⟩))

end Sys2Proof.Machine
end

