-- ==== Sys2Proof/Machine/Pure.lean ====
section
/-! DEFINITION. The meanings of the pure rows: CHECKSUM8, ENCODE, DECODE, CLASSIFY, and the generic FRAME row. Each returns a
value and changes no state of the block (R90, R100, R103, R140). -/

namespace Sys2Proof.Machine

/-- CHECKSUM8(xs) (R90). -/
def execChecksum8 (xs : List Byte) (s : State) : Result :=
  returning s (.byte (checksum8 xs))

/-- ENCODE(k, p) (R100). -/
def execEncode (k : Keycode) (p : Bool) (s : State) : Result :=
  returning s (.frame (encodeFrame k p))

/-- DECODE(f) (R103). -/
def execDecode (f : Frame) (s : State) : Result :=
  returning s (.decoded (decodeFrame f))

/-- CLASSIFY(c) (R140). -/
def execClassify (c : Keycode) (s : State) : Result :=
  returning s (.keyClass (classify c))

/-- FRAME: a frame that begins with PREAMBLE, as DECODE parses it (the table's effect column, R103). -/
def execFrame (lo hi p c : Byte) (s : State) : Result :=
  returning s (.decoded
    (if c = preambleByte + lo + hi + p then .ok (keycodeOf lo hi) (pressedFlag p) else .checksumMismatch))

end Sys2Proof.Machine
end

