-- ==== Sys2Proof/Machine/Dispatch.lean ====
section
/-! DEFINITION. One arm per constructor of Instr, each one call of its meaning. -/

namespace Sys2Proof.Machine

def exec (i : Instr) (s : State) : Host.Outcome State Fault Refusal :=
  match i with
  | .frame lo hi p c => Sys2Proof.Machine.execFrame lo hi p c s
  | .frameStdPress lo p => Sys2Proof.Machine.execFrameStdPress lo p s
  | .frameStdRelease lo => Sys2Proof.Machine.execFrameStdRelease lo s
  | .frameMacro n p => Sys2Proof.Machine.execFrameMacro n p s
  | .frameInvalidKc lo hi p => Sys2Proof.Machine.execFrameInvalidKc lo hi p s
  | .frameBadsum lo hi p c => Sys2Proof.Machine.execFrameBadsum lo hi p c s
  | .frameBadpre first lo hi p c => Sys2Proof.Machine.execFrameBadpre first lo hi p c s
  | .byteSof => Sys2Proof.Machine.execByteSof s
  | .byteHuntDiscard b => Sys2Proof.Machine.execByteHuntDiscard b s
  | .byteData b => Sys2Proof.Machine.execByteData b s
  | .byteLast b => Sys2Proof.Machine.execByteLast b s
  | .checksum8 xs => Sys2Proof.Machine.execChecksum8 xs s
  | .encode k p => Sys2Proof.Machine.execEncode k p s
  | .decode f => Sys2Proof.Machine.execDecode f s
  | .classify c => Sys2Proof.Machine.execClassify c s
  | .rxbyte b => Sys2Proof.Machine.execRxbyte b s
  | .framedone => Sys2Proof.Machine.execFramedone s
  | .tickMaster => Sys2Proof.Machine.execTickMaster s
  | .tickSlave => Sys2Proof.Machine.execTickSlave s
  | .keyevtSlave k p => Sys2Proof.Machine.execKeyevtSlave k p s
  | .keyevtMaster k p => Sys2Proof.Machine.execKeyevtMaster k p s
  | .reset r => Sys2Proof.Machine.execReset r s

end Sys2Proof.Machine
end

