-- ==== Sys2Proof/Decode.lean ====
section
/-! DEFINITION. The decoder, total on any bytes, and the encoder. A stream byte is decoded by IDX and the preamble test
(30_encoding.md R68), a completed frame by the map of R67, the events Tick and KeyEvt by ROLE (44_dispatcher.md R150).
The operation rows have no encoding (D19). -/

namespace Sys2Proof

open Sys2Proof.Machine

/-- The row a stream byte stands for at a frame position (R68, R121 to R124). -/
def rowOfByte (i : Idx) (b : Byte) : Instr :=
  if i = 0 then
    if isPreamble b then .byteSof else .byteHuntDiscard b
  else if i = 4 then .byteLast b
  else .byteData b

/-- The row a completed frame stands for: the rows of R67 in the order preamble, checksum, class of the keycode, pressed. The
class is CLASSIFY's, by the comparisons of R140, because the map's bit patterns hold for one BAND_START only (R144). -/
def rowOfFrame (f : Frame) : Instr :=
  if !isPreamble f.preamble then .frameBadpre f.preamble f.kcLo f.kcHi f.pressed f.cksum
  else if !cksumMatches f then .frameBadsum f.kcLo f.kcHi f.pressed f.cksum
  else
    match classify (keycodeOf f.kcLo f.kcHi) with
    | .standardKey => if wfPressed f.pressed then .frameStdPress f.kcLo f.pressed else .frameStdRelease f.kcLo
    | .remoteMacro _ => .frameMacro (macroOffset (keycodeOf f.kcLo f.kcHi)) f.pressed
    | .invalid => .frameInvalidKc f.kcLo f.kcHi f.pressed

/-- The row the event Tick stands for in a role (R150). -/
def rowOfTick : Role → Instr
  | .master => .tickMaster
  | .slave => .tickSlave

/-- The row the event KeyEvt(k, p) stands for in a role (R150). -/
def rowOfKeyEvt (r : Role) (k : Keycode) (p : Bool) : Instr :=
  match r with
  | .master => .keyevtMaster k p
  | .slave => .keyevtSlave k p

/-- Why the decoder rejects bytes. -/
inductive DecodeError where
  /-- The only encodings are one stream byte and the five bytes of a frame (R60, R68, R71). Safe: no row has this length. -/
  | noRowOfLength (n : Nat)
  deriving DecidableEq, Repr

/-- The decoder on a list of bytes, at frame position i: one byte is a stream byte, five are a completed frame. -/
def decodeBytes (i : Idx) : List Byte → Except DecodeError Instr
  | [b] => .ok (rowOfByte i b)
  | [b0, b1, b2, b3, b4] => .ok (rowOfFrame ⟨b0, b1, b2, b3, b4⟩)
  | bs => .error (.noRowOfLength bs.length)

/-- The frame a row of the FRAME format stands for (R61, and the rows' patterns and checksum constraints). -/
def frameOfRow : Instr → Option Frame
  | .frame lo hi p c => some ⟨preambleByte, lo, hi, p, c⟩
  | .frameStdPress lo p => some (sealedFrame lo 0x00#8 p)
  | .frameStdRelease lo => some (sealedFrame lo 0x00#8 0x00#8)
  | .frameMacro n p => some (sealedFrame (keycodeLo (macroCode n)) (keycodeHi (macroCode n)) p)
  | .frameInvalidKc lo hi p => some (sealedFrame lo hi p)
  | .frameBadsum lo hi p c => some ⟨preambleByte, lo, hi, p, c⟩
  | .frameBadpre first lo hi p c => some ⟨first, lo, hi, p, c⟩
  | .byteSof | .byteHuntDiscard _ | .byteData _ | .byteLast _ => none
  | .checksum8 _ | .encode _ _ | .decode _ | .classify _ => none
  | .rxbyte _ | .framedone | .tickMaster | .tickSlave => none
  | .keyevtSlave _ _ | .keyevtMaster _ _ | .reset _ => none

/-- The stream byte a row of the BYTE format stands for. -/
def byteOfRow : Instr → Option Byte
  | .byteSof => some preambleByte
  | .byteHuntDiscard b | .byteData b | .byteLast b => some b
  | .frame _ _ _ _ | .frameStdPress _ _ | .frameStdRelease _ | .frameMacro _ _ => none
  | .frameInvalidKc _ _ _ | .frameBadsum _ _ _ _ | .frameBadpre _ _ _ _ _ => none
  | .checksum8 _ | .encode _ _ | .decode _ | .classify _ => none
  | .rxbyte _ | .framedone | .tickMaster | .tickSlave => none
  | .keyevtSlave _ _ | .keyevtMaster _ _ | .reset _ => none

/-- The encoder: the bytes of a row, none for a row the table gives no encoding. -/
def encode (i : Instr) : Option (List Byte) :=
  match byteOfRow i with
  | some b => some [b]
  | none => (frameOfRow i).map frameBytes

/-- The frame positions at which a BYTE row is selected (the state part of its constraint); a FRAME row at any. -/
def rowSelectedAt (row : Instr) (i : Idx) : Bool :=
  match row with
  | .byteSof | .byteHuntDiscard _ => i == 0
  | .byteData _ => i != 0 && i != 4
  | .byteLast _ => i == 4
  | .frame _ _ _ _ | .frameStdPress _ _ | .frameStdRelease _ | .frameMacro _ _ => true
  | .frameInvalidKc _ _ _ | .frameBadsum _ _ _ _ | .frameBadpre _ _ _ _ _ => true
  | .checksum8 _ | .encode _ _ | .decode _ | .classify _ => true
  | .rxbyte _ | .framedone | .tickMaster | .tickSlave => true
  | .keyevtSlave _ _ | .keyevtMaster _ _ | .reset _ => true

/-- The bytes of a table word: 8 bits are one stream byte, 40 bits the word W with byte 0 most significant (R61, D19). -/
def tableWordBytes (nbits w : Nat) : Option (List Byte) :=
  match nbits with
  | 8 => some [BitVec.ofNat 8 w]
  | 40 => some (frameBytes (frameOfWord w))
  | _ => none

/-- The row the decoder reads from a table word, a stream byte being taken at IDX = 0 (log entry 9). -/
def decodeTableWord (nbits w : Nat) : Option Instr :=
  match tableWordBytes nbits w with
  | some bs => (decodeBytes 0 bs).toOption
  | none => none

end Sys2Proof
end

