-- ==== Sys2Proof/Machine/Fetch.lean ====
section
/-! DEFINITION. Taking the next line of the environment's schedule and finding the instruction it stands for. The block has no
instruction fetch (20_memory.md R50); its operations are called, one at a time and each to completion (R53 a, R199). -/

namespace Sys2Proof.Machine

/-- The instruction an input stands for: events by ROLE (R150), a stream byte by IDX (R68), a frame by its bytes (R67), an
operation applied directly as itself. None where the block's state is needed and there is none, and for an arrival. -/
def instrOf (blk : Option Block) : Input → Option Instr
  | .event (.reset r) => some (.reset r)
  | .event .tick => blk.map fun k => rowOfTick k.role
  | .event (.keyEvt c p) => blk.map fun k => rowOfKeyEvt k.role c p
  | .byte b => blk.map fun k => rowOfByte k.idx b
  | .frame f => blk.map fun _ => rowOfFrame f
  | .apply i => some i
  | .arrive _ => none

/-- What the head of the schedule asks for. -/
inductive Fetched where
  /-- The schedule is empty: the block "simply does nothing and keeps its state" (R201). -/
  | idle
  /-- The transport's move: bytes arrive (R200), s is the state the schedule has moved on in. -/
  | arrival (bs : List Byte) (s : State)
  /-- An instruction to execute in s. -/
  | run (i : Instr) (s : State)
  /-- An operation before the first RESET (R212). -/
  | noBlock
  deriving DecidableEq, Repr

/-- The next line of the schedule. -/
def fetch (s : State) : Fetched :=
  match s.inputs with
  | [] => .idle
  | .arrive bs :: rest => .arrival bs (s.schedule rest)
  | x :: rest =>
    match instrOf s.block x with
    | some i => .run i (s.schedule rest)
    | none => .noBlock

/-- The input that presents a table word to the decoder: a stream byte or a frame (log entry 9). -/
def wordInput (nbits w : Nat) : Option Input :=
  match nbits with
  | 8 => some (.byte (BitVec.ofNat 8 w))
  | 40 => some (.frame (frameOfWord w))
  | _ => none

/-- Put an input first in the schedule and the receiver at IDX = 0, where `decodeTableWord` takes a stream byte. -/
def presentInput (x : Input) (s : State) : State :=
  { s with inputs := x :: s.inputs, block := s.block.map fun k => k.goto 0 }

end Sys2Proof.Machine
end

