-- ==== Sys2Proof/Machine/Step.lean ====
section
/-! DEFINITION. One step: the next line of the schedule, run to completion (R53 a, R199). -/

namespace Sys2Proof.Machine

def step (s : State) : Host.Outcome State Fault Refusal :=
  match fetch s with
  | .idle => .next s
  | .arrival bs s' => .next (s'.receive bs)
  | .run i s' => exec i s'
  | .noBlock => .refused .beforeReset

/-- The state whose next step takes the table word w (log entry 9); a width no encoded row has changes nothing. -/
def State.withFetchWord (s : State) (nbits w : Nat) : State :=
  match wordInput nbits w with
  | some x => presentInput x s
  | none => s

end Sys2Proof.Machine
end

