-- ==== Sys2Proof/Machine/Link.lean ====
section
/-! DEFINITION. Two instances make a link (60_exceptions.md R198), and the two abbreviations of the event script (30_encoding.md
R81). The instances share no state (R33): each is a State of its own, stepped on its own. -/

namespace Sys2Proof.Machine

/-- The bytes of the TX stream among output actions, in order (R27). -/
def txBytes (as : List Action) : List Byte :=
  as.filterMap fun a =>
    match a with
    | .tx b => some b
    | .diag _ => none
    | .raiseKeyEvent _ _ => none
    | .assertKey _ => none
    | .releaseKey _ => none

/-- A link: the two instances and how many of the Slave's bytes have been carried over. -/
structure Link where
  slave   : State
  master  : State
  carried : Nat
  deriving DecidableEq, Repr

/-- LINK (R81) through a channel: the bytes the Slave emitted since the last LINK arrive at the Master as the channel delivers
them. R81's own LINK is the unchanged channel, `id`; a channel may also change, lose or add bytes (R52, R198). -/
def Link.transfer (channel : List Byte → List Byte) (l : Link) : Link :=
  { l with
    master := l.master.receive (channel ((txBytes l.slave.trace).drop l.carried)),
    carried := (txBytes l.slave.trace).length }

/-- FRAME kkkk press|release (R81): the arrival of the five bytes of ENCODE(k, p). -/
def frameArrival (k : Keycode) (p : Bool) : Input :=
  .arrive (frameBytes (encodeFrame k p))

end Sys2Proof.Machine
end

