-- ==== Sys2Proof/Safety.lean ====
section
/-! DEFINITION. What counts as a safe state, the kinds of output action, and the relation of states that differ only in what
the spec calls unobservable. -/

namespace Sys2Proof.Machine

/-- R23 b: if IDX is not 0 then BUF[0] is PREAMBLE. (R23 a is the type of IDX.) -/
abbrev Block.Inv (k : Block) : Prop :=
  k.idx ≠ 0 → k.buf.preamble = preambleByte

/-- The block has been RESET and satisfies R23. -/
def State.inv (s : State) : Bool :=
  match s.block with
  | none => false
  | some k => decide k.Inv

/-- An action on the transport's transmit side. -/
def Action.isTx : Action → Bool
  | .tx _ => true
  | .diag _ | .raiseKeyEvent _ _ | .assertKey _ | .releaseKey _ => false

/-- An action on the diagnostic sink. -/
def Action.isDiag : Action → Bool
  | .diag _ => true
  | .tx _ | .raiseKeyEvent _ _ | .assertKey _ | .releaseKey _ => false

/-- A host action (R163): AssertKey, ReleaseKey or RaiseKeyEvent. -/
def Action.isHost : Action → Bool
  | .raiseKeyEvent _ _ | .assertKey _ | .releaseKey _ => true
  | .tx _ | .diag _ => false

/-- Two blocks that agree on everything but stale bytes: ROLE, IDX, and BUF[j] for j below IDX (R23 c). -/
def Block.agree (k l : Block) : Prop :=
  k.role = l.role ∧ k.idx = l.idx ∧ ∀ j : Idx, j < k.idx → slotGet k.buf j = slotGet l.buf j

/-- Two states that agree on everything but stale bytes of BUF and the model's draw counter. -/
def State.agree (s t : State) : Prop :=
  (match s.block, t.block with
    | none, none => True
    | some k, some l => k.agree l
    | none, some _ => False
    | some _, none => False)
    ∧ s.rxq = t.rxq ∧ s.inputs = t.inputs ∧ s.trace = t.trace ∧ s.returned = t.returned

/-- The host action a key event asks for, if its keycode is deliverable (R159 to R161). -/
def deliveredAction (c : Keycode) (p : Bool) : Option Action :=
  match classify c with
  | .standardKey => some (if p then .assertKey c else .releaseKey c)
  | .remoteMacro _ => some (.raiseKeyEvent c p)
  | .invalid => none

/-- The bytes a schedule delivers to RXQ, in order. -/
def arrivals (xs : List Input) : List Byte :=
  xs.flatMap fun x =>
    match x with
    | .arrive bs => bs
    | .event _ | .byte _ | .frame _ | .apply _ => []

/-- An input of one session (R196): Arrive, Tick or KeyEvt. -/
def Input.inSession : Input → Bool
  | .arrive _ | .event .tick | .event (.keyEvt _ _) => true
  | .event (.reset _) | .byte _ | .frame _ | .apply _ => false

/-- The schedule has a Tick after its last Arrive (R156). -/
def tickAfterLastArrival (xs : List Input) : Prop :=
  ∃ pre post, xs = pre ++ .event .tick :: post ∧ arrivals post = []

/-- n steps of the machine behind Host/Core.lean. -/
abbrev runSteps (n : Nat) (s : State) : Result :=
  Host.Core.run Sys2Proof.core n s

/-- An input the environment of R200 makes: an event of R30 or an arrival. -/
def Input.isEnvironment : Input → Bool
  | .event _ | .arrive _ => true
  | .byte _ | .frame _ | .apply _ => false

end Sys2Proof.Machine
end

