-- ==== Sys2Proof/Certificates/Slice0/Obligations.lean ====
section
/-! DEFINITION. The statements for the provers. Each docstring names the rule it formalises; where a clause rests on the
model's own choice, the docstring names the log entry. Hypotheses `s.block = some k` say that the block has been RESET. -/

open Sys2Proof Sys2Proof.Machine

/-! ## RESET and before it -/

/-- R211: RESET(role) sets ROLE and IDX, leaves BUF unspecified, emits nothing and touches no collaborator; R23 b holds after
it. It completes in every state, before the first RESET too. The draw counter `d` is the model's own (log entry 1). -/
def Obligations.ResetInstallsRoleAndClearsIndex : Prop :=
  ∀ (r : Role) (s : State), ∃ (f : Frame) (d : Nat),
    exec (.reset r) s = .next { s with block := some { role := r, idx := 0, buf := f }, draws := d }
      ∧ ({ role := r, idx := 0, buf := f } : Block).Inv

/-- The state after reset: R32's IDX, R23's invariant, nothing received, scheduled, emitted or returned. That its role is
Master is the model's choice (log entry 3). -/
def Obligations.ResetStateMeetsInvariant : Prop :=
  State.reset.inv = true ∧ State.reset.block.map Block.idx = some 0 ∧ State.reset.block.map Block.role = some .master
    ∧ State.reset.rxq = [] ∧ State.reset.inputs = [] ∧ State.reset.trace = [] ∧ State.reset.returned = []

/-- R32, R212, U7: before the first RESET no operation may be applied; the model refuses each by name. -/
def Obligations.OperationsBeforeResetAreRefused : Prop :=
  ∀ (i : Instr) (s : State), s.block = none → (∀ r, i ≠ .reset r) → exec i s = .refused .beforeReset

/-- R189: every operation is total once the block has been RESET, and the block can continue after it. -/
def Obligations.EveryOperationCompletes : Prop :=
  ∀ (i : Instr) (s : State) (k : Block), s.block = some k → ∃ t l, exec i s = .next t ∧ t.block = some l

/-- R189, D16: no schedule of inputs, however long, stops a block that has been RESET. -/
def Obligations.NoRunEverStops : Prop :=
  ∀ (n : Nat) (s : State) (k : Block), s.block = some k → ∃ t l, runSteps n s = .next t ∧ t.block = some l

/-! ## The pure functions -/

/-- R90: CHECKSUM8 returns the integer sum of all bytes modulo 256 and changes nothing. -/
def Obligations.Checksum8ReturnsSumModulo256 : Prop :=
  ∀ (xs : List Byte) (s : State) (k : Block), s.block = some k →
    exec (.checksum8 xs) s =
      .next { s with returned := s.returned ++ [.byte (BitVec.ofNat 8 (xs.map fun x => x.toNat).sum)] }

/-- R91 b to e: CHECKSUM8 is additive, blind to order, sensitive to every change of one byte, blind to two changes that cancel. -/
def Obligations.Checksum8Laws : Prop :=
  (∀ xs ys : List Byte, checksum8 (xs ++ ys) = checksum8 xs + checksum8 ys)
    ∧ (∀ xs ys : List Byte, xs.Perm ys → checksum8 xs = checksum8 ys)
    ∧ (∀ (xs ys : List Byte) (x x' : Byte),
        checksum8 (xs ++ x' :: ys) - checksum8 (xs ++ x :: ys) = x' - x
          ∧ (x ≠ x' → checksum8 (xs ++ x :: ys) ≠ checksum8 (xs ++ x' :: ys)))
    ∧ (∀ (xs ys zs : List Byte) (x x' y y' : Byte), (x' - x) + (y' - y) = 0#8 →
        checksum8 (xs ++ x :: ys ++ y :: zs) = checksum8 (xs ++ x' :: ys ++ y' :: zs))

/-- R100, R101: ENCODE returns preamble, keycode low byte, keycode high byte, pressed as 0 or 1, and the sum of those four
modulo 256, for every keycode. -/
def Obligations.EncodeReturnsPackedFrame : Prop :=
  ∀ (c : Keycode) (p : Bool) (s : State) (k : Block), s.block = some k →
    exec (.encode c p) s =
      .next { s with returned := s.returned ++ [.frame {
        preamble := 0x69#8
        kcLo := BitVec.ofNat 8 (c.toNat % 256)
        kcHi := BitVec.ofNat 8 (c.toNat / 256)
        pressed := if p then 0x01#8 else 0x00#8
        cksum := BitVec.ofNat 8 (0x69 + c.toNat % 256 + c.toNat / 256 + (if p then 1 else 0)) }] }

/-- R103, R104: DECODE tests the preamble, then the checksum over the received bytes 0..3, then returns the little-endian
keycode and whether byte 3 is not zero; it changes nothing. -/
def Obligations.DecodeTestsPreambleThenChecksum : Prop :=
  ∀ (f : Frame) (s : State) (k : Block), s.block = some k →
    (f.preamble ≠ 0x69#8 →
      exec (.decode f) s = .next { s with returned := s.returned ++ [.decoded .preambleMismatch] })
    ∧ (f.preamble = 0x69#8 → f.preamble + f.kcLo + f.kcHi + f.pressed ≠ f.cksum →
      exec (.decode f) s = .next { s with returned := s.returned ++ [.decoded .checksumMismatch] })
    ∧ (f.preamble = 0x69#8 → f.preamble + f.kcLo + f.kcHi + f.pressed = f.cksum →
      exec (.decode f) s = .next { s with returned := s.returned ++
        [.decoded (.ok (BitVec.ofNat 16 (f.kcHi.toNat * 256 + f.kcLo.toNat)) (decide (f.pressed ≠ 0x00#8)))] })

/-- R105: the round-trip law, for every keycode and both flags. -/
def Obligations.DecodeOfEncodeIsTheEvent : Prop :=
  ∀ (c : Keycode) (p : Bool), decodeFrame (encodeFrame c p) = .ok c p

/-- R102: the image of ENCODE is the canonical frames; ENCODE is injective, the difference showing in bytes 1 to 3; every
frame it gives is valid. -/
def Obligations.EncodeImageIsTheCanonicalFrames : Prop :=
  (∀ f : Frame, (∃ c p, encodeFrame c p = f) ↔ isCanonicalFrame f = true)
    ∧ (∀ (c c' : Keycode) (p p' : Bool), (c, p) ≠ (c', p') →
        (encodeFrame c p).kcLo ≠ (encodeFrame c' p').kcLo ∨ (encodeFrame c p).kcHi ≠ (encodeFrame c' p').kcHi
          ∨ (encodeFrame c p).pressed ≠ (encodeFrame c' p').pressed)
    ∧ (∀ (c : Keycode) (p : Bool), (encodeFrame c p).preamble = 0x69#8
        ∧ checksum8 [(encodeFrame c p).preamble, (encodeFrame c p).kcLo, (encodeFrame c p).kcHi, (encodeFrame c p).pressed]
          = (encodeFrame c p).cksum ∧ isValidFrame (encodeFrame c p) = true)

/-- R106, R66: the frames that decode to (c, p) are the valid ones with the bytes of c and a pressed byte whose flag is p, so
255 for a press and one for a release; encoding again restores a frame exactly if it is canonical, and otherwise gives 0x01. -/
def Obligations.ReencodingRestoresExactlyCanonicalFrames : Prop :=
  ∀ (f : Frame) (c : Keycode) (p : Bool),
    (decodeFrame f = .ok c p ↔
      isValidFrame f = true ∧ f.kcLo = keycodeLo c ∧ f.kcHi = keycodeHi c ∧ (f.pressed ≠ 0x00#8 ↔ p = true))
    ∧ (decodeFrame f = .ok c p → (encodeFrame c p = f ↔ isCanonicalFrame f = true)
        ∧ (isCanonicalFrame f = false → (encodeFrame c p).pressed = 0x01#8))

/-- R108 a to c: which corruptions of a valid frame DECODE reports, and how. -/
def Obligations.CorruptionIsReportedUnlessDifferencesCancel : Prop :=
  ∀ f g : Frame, isValidFrame f = true →
    (g.preamble - f.preamble ≠ 0#8 → decodeFrame g = .preambleMismatch)
    ∧ (g.preamble - f.preamble = 0#8 →
        (g.kcLo - f.kcLo) + (g.kcHi - f.kcHi) + (g.pressed - f.pressed) - (g.cksum - f.cksum) ≠ 0#8 →
        decodeFrame g = .checksumMismatch)
    ∧ (g.preamble - f.preamble = 0#8 →
        (g.kcLo - f.kcLo) + (g.kcHi - f.kcHi) + (g.pressed - f.pressed) - (g.cksum - f.cksum) = 0#8 →
        ∃ c p, decodeFrame g = .ok c p)

/-- R108, 90_conflicts.md C4: each of the 40 single-bit flips of a valid frame is detected, the 8 of byte 0 as
PreambleMismatch and the other 32 as ChecksumMismatch. -/
def Obligations.EverySingleBitFlipIsDetected : Prop :=
  ∀ (f : Frame) (i : Idx) (bit : Fin 8), isValidFrame f = true →
    decodeFrame (slotSet f i (slotGet f i ^^^ (1#8 <<< bit.val))) =
      if i = 0 then .preambleMismatch else .checksumMismatch

/-- R140, R142: CLASSIFY by the ranges, with the macro index; it changes nothing. -/
def Obligations.ClassifyReturnsTheRange : Prop :=
  ∀ (c : Keycode) (s : State) (k : Block), s.block = some k →
    (0x0001 ≤ c.toNat → c.toNat ≤ 0x00FE →
      exec (.classify c) s = .next { s with returned := s.returned ++ [.keyClass .standardKey] })
    ∧ (0xFFF0 ≤ c.toNat →
      exec (.classify c) s = .next { s with returned := s.returned ++ [.keyClass (.remoteMacro (c.toNat - 0xFFF0 + 1))] })
    ∧ (c.toNat = 0x0000 ∨ c.toNat = 0x00FF ∨ (0x0100 ≤ c.toNat ∧ c.toNat ≤ 0xFFEF) →
      exec (.classify c) s = .next { s with returned := s.returned ++ [.keyClass .invalid] })

/-- R144: CLASSIFY as a hardware comparator's bit tests. -/
def Obligations.ClassifyEqualsTheBitTests : Prop :=
  ∀ (c : Keycode),
    (classify c = .standardKey ↔
      c.extractLsb' 8 8 = 0x00#8 ∧ c.extractLsb' 0 8 ≠ 0x00#8 ∧ c.extractLsb' 0 8 ≠ 0xFF#8)
    ∧ (∀ n : Nat, classify c = .remoteMacro n ↔ c.extractLsb' 4 12 = 0xFFF#12 ∧ n = (c.extractLsb' 0 4).toNat + 1)
    ∧ (classify c = .invalid ↔
      ¬ (c.extractLsb' 8 8 = 0x00#8 ∧ c.extractLsb' 0 8 ≠ 0x00#8 ∧ c.extractLsb' 0 8 ≠ 0xFF#8)
        ∧ c.extractLsb' 4 12 ≠ 0xFFF#12)

/-- The table's FRAME row (R103): the generic frame returns what DECODE returns for it. -/
def Obligations.GenericFrameRowReturnsItsDecoding : Prop :=
  ∀ (lo hi p c : Byte) (s : State) (k : Block), s.block = some k →
    exec (.frame lo hi p c) s =
      .next { s with returned := s.returned ++ [.decoded (decodeFrame ⟨0x69#8, lo, hi, p, c⟩)] }

/-! ## The frame rows at a Master -/

/-- R67 rows 3 to 5: a standard key is asserted or released, a macro event is raised, with the full keycode; IDX becomes 0 and
BUF keeps its bytes. -/
def Obligations.KeyFrameRowsDeliverOneHostAction : Prop :=
  ∀ (s : State) (k : Block), s.block = some k → k.role = .master →
    (∀ lo p : Byte, 0x01 ≤ lo.toNat → lo.toNat ≤ 0xFE → p ≠ 0x00#8 →
      exec (.frameStdPress lo p) s = .next { s with
        block := some { k with idx := 0 }, trace := s.trace ++ [.assertKey (BitVec.ofNat 16 lo.toNat)] })
    ∧ (∀ lo : Byte, 0x01 ≤ lo.toNat → lo.toNat ≤ 0xFE →
      exec (.frameStdRelease lo) s = .next { s with
        block := some { k with idx := 0 }, trace := s.trace ++ [.releaseKey (BitVec.ofNat 16 lo.toNat)] })
    ∧ (∀ (n : Keycode) (p : Byte), n.toNat < 16 →
      exec (.frameMacro n p) s = .next { s with
        block := some { k with idx := 0 },
        trace := s.trace ++ [.raiseKeyEvent (BitVec.ofNat 16 (0xFFF0 + n.toNat)) (decide (p ≠ 0x00#8))] })

/-- R67 row 6: a valid frame of an Invalid keycode is dropped in silence; IDX becomes 0. -/
def Obligations.InvalidKeycodeFrameIsDroppedInSilence : Prop :=
  ∀ (lo hi p : Byte) (s : State) (k : Block), s.block = some k → k.role = .master →
    (hi.toNat * 256 + lo.toNat = 0x0000 ∨ hi.toNat * 256 + lo.toNat = 0x00FF
      ∨ (0x0100 ≤ hi.toNat * 256 + lo.toNat ∧ hi.toNat * 256 + lo.toNat ≤ 0xFFEF)) →
    exec (.frameInvalidKc lo hi p) s = .next { s with block := some { k with idx := 0 } }

/-- R67 row 2: a wrong checksum gives one diagnostic with the five bytes, the computed and the received checksum; IDX becomes 0. -/
def Obligations.BadChecksumFrameIsReportedOnce : Prop :=
  ∀ (lo hi p c : Byte) (s : State) (k : Block), s.block = some k → k.role = .master →
    c ≠ 0x69#8 + lo + hi + p →
    exec (.frameBadsum lo hi p c) s = .next { s with
      block := some { k with idx := 0 },
      trace := s.trace ++ [.diag (.checksumMismatch ⟨0x69#8, lo, hi, p, c⟩ (0x69#8 + lo + hi + p) c)] }

/-- R67 row 1: a wrong preamble, if forced, gives one SyncError with byte 0; IDX becomes 0. -/
def Obligations.BadPreambleFrameIsReportedOnce : Prop :=
  ∀ (first lo hi p c : Byte) (s : State) (k : Block), s.block = some k → k.role = .master →
    first ≠ 0x69#8 →
    exec (.frameBadpre first lo hi p c) s = .next { s with
      block := some { k with idx := 0 }, trace := s.trace ++ [.diag (.syncError first)] }

/-- R157 and its arms R158 to R162: what FRAMEDONE emits for BUF at a Master; it writes no state of the block. R157 performs it at
IDX = 4; that it does the same at every other IDX is the model's choice (log entry 18). -/
def Obligations.FramedoneDispatchesByDecodeAndClass : Prop :=
  ∀ (s : State) (k : Block), s.block = some k → k.role = .master →
    (k.buf.preamble = 0x69#8 →
      checksum8 [k.buf.preamble, k.buf.kcLo, k.buf.kcHi, k.buf.pressed] ≠ k.buf.cksum →
      exec .framedone s = .next { s with trace := s.trace ++ [.diag (.checksumMismatch k.buf
        (checksum8 [k.buf.preamble, k.buf.kcLo, k.buf.kcHi, k.buf.pressed]) k.buf.cksum)] })
    ∧ (k.buf.preamble ≠ 0x69#8 →
      exec .framedone s = .next { s with trace := s.trace ++ [.diag (.syncError k.buf.preamble)] })
    ∧ (∀ c, decodeFrame k.buf = .ok c true → classify c = .standardKey →
      exec .framedone s = .next { s with trace := s.trace ++ [.assertKey c] })
    ∧ (∀ c, decodeFrame k.buf = .ok c false → classify c = .standardKey →
      exec .framedone s = .next { s with trace := s.trace ++ [.releaseKey c] })
    ∧ (∀ c p n, decodeFrame k.buf = .ok c p → classify c = .remoteMacro n →
      exec .framedone s = .next { s with trace := s.trace ++ [.raiseKeyEvent c p] })
    ∧ (∀ c p, decodeFrame k.buf = .ok c p → classify c = .invalid → exec .framedone s = .next s)

/-- R67 against R157: the row the map selects for BUF does what FRAMEDONE does, and then IDX is 0. R157 performs FRAMEDONE at
IDX = 4; the other values of IDX are the model's choice (log entry 18). -/
def Obligations.FramedoneIsTheRowOfItsBytes : Prop :=
  ∀ (s : State) (k : Block), s.block = some k → k.role = .master →
    ∃ as : List Action,
      exec .framedone s = .next { s with trace := s.trace ++ as }
      ∧ exec (rowOfFrame k.buf) s = .next { s with block := some { k with idx := 0 }, trace := s.trace ++ as }

/-! ## The byte rows at a Master -/

/-- R121: at IDX = 0 a byte that is not PREAMBLE is discarded with one SyncError and nothing else changes. -/
def Obligations.HuntingDiscardsOtherBytes : Prop :=
  ∀ (b : Byte) (s : State) (k : Block), s.block = some k → k.role = .master → k.idx = 0 → b ≠ 0x69#8 →
    exec (.rxbyte b) s = .next { s with trace := s.trace ++ [.diag (.syncError b)] }
    ∧ exec (.byteHuntDiscard b) s = .next { s with trace := s.trace ++ [.diag (.syncError b)] }

/-- R122: at IDX = 0 the preamble is stored in BUF[0], IDX becomes 1, nothing is emitted. -/
def Obligations.HuntingTakesThePreamble : Prop :=
  ∀ (s : State) (k : Block), s.block = some k → k.role = .master → k.idx = 0 →
    exec (.rxbyte 0x69#8) s =
      .next { s with block := some { k with idx := 1, buf := { k.buf with preamble := 0x69#8 } } }
    ∧ exec .byteSof s =
      .next { s with block := some { k with idx := 1, buf := { k.buf with preamble := 0x69#8 } } }

/-- R123: at IDX 1, 2, 3 the byte, whatever its value, is stored in BUF[IDX] and IDX goes up by one; nothing is emitted. -/
def Obligations.AccumulatingStoresEveryByte : Prop :=
  ∀ (b : Byte) (s : State) (k : Block), s.block = some k → k.role = .master →
    (k.idx = 1 → ∀ i, i = Instr.rxbyte b ∨ i = Instr.byteData b →
      exec i s = .next { s with block := some { k with idx := 2, buf := { k.buf with kcLo := b } } })
    ∧ (k.idx = 2 → ∀ i, i = Instr.rxbyte b ∨ i = Instr.byteData b →
      exec i s = .next { s with block := some { k with idx := 3, buf := { k.buf with kcHi := b } } })
    ∧ (k.idx = 3 → ∀ i, i = Instr.rxbyte b ∨ i = Instr.byteData b →
      exec i s = .next { s with block := some { k with idx := 4, buf := { k.buf with pressed := b } } })

/-- R124: at IDX = 4 the byte is stored in BUF[4], FRAMEDONE is performed on the five bytes, at most one action is emitted, and
IDX becomes 0 whatever the outcome. -/
def Obligations.FifthByteCompletesTheFrame : Prop :=
  ∀ (b : Byte) (s : State) (k : Block), s.block = some k → k.role = .master → k.idx = 4 →
    ∃ as : List Action, as.length ≤ 1
      ∧ exec .framedone { s with block := some { k with buf := { k.buf with cksum := b } } } =
          .next { s with block := some { k with buf := { k.buf with cksum := b } }, trace := s.trace ++ as }
      ∧ (∀ i, i = Instr.rxbyte b ∨ i = Instr.byteLast b →
          exec i s = .next { s with
            block := some { k with idx := 0, buf := { k.buf with cksum := b } }, trace := s.trace ++ as })

/-- R120: RXBYTE is the row that the decoder selects by IDX and the byte, in every state after RESET. -/
def Obligations.RxbyteRunsTheSelectedRow : Prop :=
  ∀ (b : Byte) (s : State) (k : Block), s.block = some k → exec (.rxbyte b) s = exec (rowOfByte k.idx b) s

/-- The model's choice (log entry 6): in every state after RESET, and with any operands, a BYTE row is RXBYTE of its byte, and at a
Master a FRAME.* row does what FRAMEDONE's rule says of its five bytes, after which IDX is 0. -/
def Obligations.RowsAlwaysMeanTheirBytes : Prop :=
  ∀ (i : Instr) (s : State) (k : Block), s.block = some k →
    (∀ b, byteOfRow i = some b → exec i s = exec (.rxbyte b) s)
    ∧ (∀ f, frameOfRow i = some f → (∀ lo hi p c, i ≠ .frame lo hi p c) → k.role = .master →
        exec i s = .next { s with block := some { k with idx := 0 }, trace := s.trace ++ frameActions f })

/-! ## Ticks and key events in the two roles -/

/-- R152: a Tick does nothing at a Slave; RXQ is not looked at. -/
def Obligations.SlaveTickDoesNothing : Prop :=
  ∀ (s : State) (k : Block), s.block = some k → k.role = .slave → exec .tickSlave s = .next s

/-- R154: a local key event does nothing at a Master, for every keycode and flag. -/
def Obligations.MasterIgnoresLocalKeyEvents : Prop :=
  ∀ (c : Keycode) (p : Bool) (s : State) (k : Block), s.block = some k → k.role = .master →
    exec (.keyevtMaster c p) s = .next s

/-- R153: at a Slave a deliverable keycode is sent as five Tx actions, byte 0 first, and any other sends nothing; no state
changes. -/
def Obligations.SlaveSendsDeliverableKeycodes : Prop :=
  ∀ (c : Keycode) (p : Bool) (s : State) (k : Block), s.block = some k → k.role = .slave →
    ((classify c = .standardKey ∨ ∃ n, classify c = .remoteMacro n) →
      exec (.keyevtSlave c p) s = .next { s with trace := s.trace ++
        [.tx (encodeFrame c p).preamble, .tx (encodeFrame c p).kcLo, .tx (encodeFrame c p).kcHi,
         .tx (encodeFrame c p).pressed, .tx (encodeFrame c p).cksum] })
    ∧ (classify c = .invalid → exec (.keyevtSlave c p) s = .next s)

/-- R151: a Master's Tick does nothing on an empty RXQ; otherwise it removes the head, gives it to RXBYTE and goes on; it always
ends with RXQ empty. -/
def Obligations.MasterTickDrainsTheQueue : Prop :=
  ∀ (s : State) (k : Block), s.block = some k → k.role = .master →
    (s.rxq = [] → exec .tickMaster s = .next s)
    ∧ (∀ b rest, s.rxq = b :: rest →
        ∃ t, exec (.rxbyte b) { s with rxq := rest } = .next t ∧ exec .tickMaster s = exec .tickMaster t)
    ∧ (∃ t, exec .tickMaster s = .next t ∧ t.rxq = [] ∧ t.inputs = s.inputs ∧ t.returned = s.returned ∧ t.draws = s.draws)

/-- The model's choice (log entries 5 and 6), after R150 and R195: what is handed to a Slave's receiver directly is ignored, and
the Tick and KeyEvt rows read ROLE themselves. -/
def Obligations.OtherRoleIsIgnoredNotTrapped : Prop :=
  ∀ (s : State) (k : Block), s.block = some k →
    (k.role = .slave →
      (∀ (j : Idx) (b : Byte), exec (rowOfByte j b) s = .next s ∧ exec (.rxbyte b) s = .next s)
      ∧ (∀ f : Frame, exec (rowOfFrame f) s = .next s) ∧ exec .framedone s = .next s ∧ exec .tickMaster s = .next s)
    ∧ (k.role = .master → ∀ c p, exec (.keyevtSlave c p) s = .next s)
    ∧ exec .tickSlave s = exec .tickMaster s
    ∧ (∀ c p, exec (.keyevtMaster c p) s = exec (.keyevtSlave c p) s)

/-! ## Rules of the whole machine -/

/-- R150: a Master never emits Tx; a Slave emits nothing else, never reads RXQ and never changes ROLE, IDX or BUF. -/
def Obligations.RolesKeepToTheirSideOfTheLink : Prop :=
  ∀ (i : Instr) (s t : State) (k : Block), s.block = some k → (∀ r, i ≠ .reset r) → exec i s = .next t →
    ∃ as : List Action, t.trace = s.trace ++ as
      ∧ (k.role = .master → ∀ a ∈ as, a.isTx = false)
      ∧ (k.role = .slave → (∀ a ∈ as, a.isTx = true) ∧ t.rxq = s.rxq ∧ t.block = s.block)

/-- R196, R24: only RESET changes ROLE. -/
def Obligations.RoleIsChangedOnlyByReset : Prop :=
  ∀ (i : Instr) (s t : State) (k : Block), s.block = some k → (∀ r, i ≠ .reset r) → exec i s = .next t →
    ∃ l, t.block = some l ∧ l.role = k.role

/-- R23 b is kept by every step from every state that has it, whatever the schedule asks for. -/
def Obligations.EveryStepKeepsTheInvariant : Prop :=
  ∀ s t : State, s.inv = true → step s = .next t → t.inv = true

/-- R130: where R23 b holds, the frame the fifth byte completes passes DECODE's preamble test. -/
def Obligations.RunningBlockNeverFailsThePreambleTest : Prop :=
  ∀ (b : Byte) (k : Block), k.Inv → k.idx = 4 →
    decodeFrame { k.buf with cksum := b } ≠ .preambleMismatch
      ∧ ∀ a ∈ (rxByte b k).2, ∀ c, a ≠ .diag (.syncError c)

/-- R12, R31: an operation reads neither the trace, nor the values returned, nor the rest of the schedule: whatever they are, it
appends the same actions and values, leaves the schedule, and changes everything else alike. -/
def Obligations.RecordsAreNeverRead : Prop :=
  ∀ (i : Instr) (s t : State), exec i s = .next t →
    ∃ (as : List Action) (vs : List Value), t.trace = s.trace ++ as ∧ t.returned = s.returned ++ vs ∧ t.inputs = s.inputs
      ∧ ∀ (tr : List Action) (rs : List Value) (xs : List Input),
        exec i { s with trace := tr, returned := rs, inputs := xs } =
          .next { t with trace := tr ++ as, returned := rs ++ vs, inputs := xs }

/-- R203: diagnostics are transparent. Two runs whose traces differ only in Diag actions keep doing so and agree in all else. -/
def Obligations.DiagnosticsAreTransparent : Prop :=
  ∀ (n : Nat) (s t : State) (tr : List Action),
    s.trace.filter (fun a => !a.isDiag) = tr.filter (fun a => !a.isDiag) → runSteps n s = .next t →
    ∃ tr', t.trace.filter (fun a => !a.isDiag) = tr'.filter (fun a => !a.isDiag)
      ∧ runSteps n { s with trace := tr } = .next { t with trace := tr' }

/-- R163: the output bounds of RXBYTE, FRAMEDONE, a Master's TICK and a Slave's KEYEVT. A host action takes five bytes, those
already held in BUF counted. FRAMEDONE applied at another IDX than 4 is the model's choice (log entry 18). -/
def Obligations.OutputsAreBounded : Prop :=
  ∀ (s : State) (k : Block), s.block = some k →
    (∀ b t, exec (.rxbyte b) s = .next t → ∃ as : List Action, t.trace = s.trace ++ as ∧ as.length ≤ 1)
    ∧ (∀ t, exec .framedone s = .next t → ∃ as : List Action, t.trace = s.trace ++ as ∧ as.length ≤ 1)
    ∧ (∀ t, exec .tickMaster s = .next t → ∃ as : List Action, t.trace = s.trace ++ as
        ∧ as.length ≤ s.rxq.length ∧ 5 * as.countP Action.isHost ≤ k.idx.val + s.rxq.length)
    ∧ (∀ c p t, exec (.keyevtSlave c p) s = .next t → ∃ as : List Action, t.trace = s.trace ++ as
        ∧ (as.length = 0 ∨ (as.length = 5 ∧ ∀ a ∈ as, a.isTx = true)))

/-- R23 c, R32, D4: what RESET leaves in BUF, and any byte of BUF at or above IDX, cannot be observed. Two states that differ only
there stay so over any run of the environment's inputs, with the same trace. -/
def Obligations.StaleBytesAreUnobservable : Prop :=
  ∀ (n : Nat) (s t : State) (k : Block), s.block = some k → s.agree t → (∀ x ∈ s.inputs, x.isEnvironment = true) →
    ∃ s' t', runSteps n s = .next s' ∧ runSteps n t = .next t' ∧ s'.agree t'

/-- R187: after a byte that raised an error the block is hunting (IDX = 0) with ROLE unchanged, ready for the next byte. -/
def Obligations.ErrorLeavesTheReceiverHunting : Prop :=
  ∀ (b : Byte) (s t : State) (k : Block) (d : Diag), s.block = some k → k.role = .master →
    exec (.rxbyte b) s = .next t → t.trace = s.trace ++ [.diag d] →
    ∃ l, t.block = some l ∧ l.idx = 0 ∧ l.role = .master

/-! ## Streams -/

/-- R127: receiving is a left fold. A Tick over xs ++ ys is a Tick over xs and then a Tick over ys. -/
def Obligations.ReceivingIsALeftFold : Prop :=
  ∀ (xs ys : List Byte) (s : State) (k : Block), s.block = some k → k.role = .master →
    ∃ t, exec .tickMaster { s with rxq := xs } = .next t
      ∧ exec .tickMaster { s with rxq := xs ++ ys } = exec .tickMaster { t with rxq := ys }

/-- R156: at a Master, two schedules of arrivals, ticks and key events that deliver the same bytes and have a Tick after the last
arrival end in the same state with the same trace. -/
def Obligations.TickScheduleIsUnobservable : Prop :=
  ∀ (xs ys : List Input) (s : State) (k : Block), s.block = some k → k.role = .master →
    (∀ x ∈ xs, x.inSession = true) → (∀ y ∈ ys, y.inSession = true) → arrivals xs = arrivals ys →
    tickAfterLastArrival xs → tickAfterLastArrival ys →
    ∃ t, runSteps xs.length { s with inputs := xs } = .next t ∧ runSteps ys.length { s with inputs := ys } = .next t

/-- R128 a: a valid frame that begins while IDX = 0 is decoded and dispatched, whatever follows it. -/
def Obligations.AlignedFrameIsDispatched : Prop :=
  ∀ (f : Frame) (rest : List Byte) (s : State) (k : Block), s.block = some k → k.role = .master → k.idx = 0 →
    isValidFrame f = true →
    exec .tickMaster { s with rxq := frameBytes f ++ rest } =
      exec .tickMaster { s with
        rxq := rest, block := some { k with buf := f }, trace := s.trace ++ frameActions f }

/-- R128 b, 90_conflicts.md C3: two valid frames around garbage without a preamble byte are both recovered, and each garbage byte
gives one SyncError. -/
def Obligations.FramesAroundCleanGarbageAreRecovered : Prop :=
  ∀ (c d : Keycode) (p q : Bool) (g : List Byte) (s : State) (k : Block),
    s.block = some k → k.role = .master → k.idx = 0 → (∀ b ∈ g, b ≠ 0x69#8) →
    exec .tickMaster { s with rxq := frameBytes (encodeFrame c p) ++ g ++ frameBytes (encodeFrame d q) } =
      .next { s with
        rxq := []
        block := some { k with buf := encodeFrame d q }
        trace := s.trace ++ (deliveredAction c p).toList ++ g.map (fun b => .diag (.syncError b))
          ++ (deliveredAction d q).toList }

/-- R129: after the loss of the first byte, a stream that repeats press and release of key 0x0069 is never realigned: n cycles
give 2n - 1 checksum diagnostics and no host action. -/
def Obligations.LostByteCanDesynchronizeWithoutEnd : Prop :=
  ∀ (n : Nat) (s : State) (k : Block), s.block = some k → k.role = .master → k.idx = 0 →
    ∃ (t : State) (as : List Action),
      exec .tickMaster { s with rxq :=
        ((List.replicate n (frameBytes (encodeFrame 0x0069#16 true) ++ frameBytes (encodeFrame 0x0069#16 false))).flatten).drop 1 }
        = .next t
      ∧ t.trace = s.trace ++ as ∧ as.length = 2 * n - 1
      ∧ ∀ a ∈ as, ∃ f computed received, a = .diag (.checksumMismatch f computed received)

/-- R126: with nothing received and nothing arriving, no number of ticks and key events moves a Master's partial frame. -/
def Obligations.PartialFramePersistsWithoutTimeout : Prop :=
  ∀ (xs : List Input) (s : State) (k : Block), s.block = some k → k.role = .master → s.rxq = [] →
    (∀ x ∈ xs, x.inSession = true) → arrivals xs = [] →
    runSteps xs.length { s with inputs := xs } = .next { s with inputs := [] }

/-- 95_test_vectors.md section 5: over an unchanged channel a Master performs exactly a Slave's deliverable events, in order, with no
diagnostic, and ends at IDX = 0. -/
def Obligations.LinkDeliversExactlyTheDeliverableEvents : Prop :=
  ∀ (events : List (Keycode × Bool)) (sl ms : State) (a b : Block),
    sl.block = some a → a.role = .slave → ms.block = some b → b.role = .master → b.idx = 0 → ms.rxq = [] →
    ∃ sl' ms',
      runSteps events.length { sl with inputs := events.map fun e => .event (.keyEvt e.1 e.2) } = .next sl'
      ∧ exec .tickMaster
          (Link.transfer id { slave := sl', master := ms, carried := (txBytes sl.trace).length }).master = .next ms'
      ∧ ms'.trace = ms.trace ++ events.filterMap (fun e => deliveredAction e.1 e.2)
      ∧ ms'.block.map Block.idx = some 0

/-! ## Decoding, encoding, stepping -/

/-- Decode of encode is the row, for every well-formed encoded row at every position that selects it. The generic FRAME row
shares its words with the rows of R67: its bytes decode to the one of those rows that has the same bytes. -/
def Obligations.DecodeOfEncodeIsTheRow : Prop :=
  (∀ (i : Instr) (j : Idx) (bs : List Byte), (∀ lo hi p c, i ≠ .frame lo hi p c) → i.wf = true →
      rowSelectedAt i j = true → encode i = some bs → decodeBytes j bs = .ok i)
    ∧ (∀ (lo hi p c : Byte) (j : Idx), ∃ i, encode (.frame lo hi p c) = some [0x69#8, lo, hi, p, c]
        ∧ decodeBytes j [0x69#8, lo, hi, p, c] = .ok i ∧ encode i = encode (.frame lo hi p c))

/-- Encode of decode is the bytes, the row decoded is well-formed and selected there, and exactly the lengths 1 and 5 decode: R67's
rows partition all 2^40 frames, R68's all bytes. -/
def Obligations.EncodeOfDecodeIsTheBytes : Prop :=
  ∀ (j : Idx) (bs : List Byte),
    (∀ i, decodeBytes j bs = .ok i → encode i = some bs ∧ i.wf = true ∧ rowSelectedAt i j = true)
    ∧ ((∃ i, decodeBytes j bs = .ok i) ↔ bs.length = 1 ∨ bs.length = 5)

/-- R67's map with the table's byte patterns: for the value BAND_START = 0xFFF0, the row of a frame read from its bytes as the
match, mask and constraint columns say, row by row. -/
def Obligations.FrameMapSelectsByBytePatterns : Prop :=
  ∀ f : Frame,
    (f.preamble ≠ 0x69#8 → rowOfFrame f = .frameBadpre f.preamble f.kcLo f.kcHi f.pressed f.cksum)
    ∧ (f.preamble = 0x69#8 → f.cksum ≠ 0x69#8 + f.kcLo + f.kcHi + f.pressed →
        rowOfFrame f = .frameBadsum f.kcLo f.kcHi f.pressed f.cksum)
    ∧ (f.preamble = 0x69#8 → f.cksum = 0x69#8 + f.kcLo + f.kcHi + f.pressed →
        (f.kcHi = 0x00#8 → f.kcLo ≠ 0x00#8 → f.kcLo ≠ 0xFF#8 → f.pressed ≠ 0x00#8 →
          rowOfFrame f = .frameStdPress f.kcLo f.pressed)
        ∧ (f.kcHi = 0x00#8 → f.kcLo ≠ 0x00#8 → f.kcLo ≠ 0xFF#8 → f.pressed = 0x00#8 →
          rowOfFrame f = .frameStdRelease f.kcLo)
        ∧ (f.kcHi = 0xFF#8 → f.kcLo.extractLsb' 4 4 = 0xF#4 →
          rowOfFrame f = .frameMacro ((f.kcLo.extractLsb' 0 4).setWidth 16) f.pressed)
        ∧ (f.kcHi = 0x00#8 → f.kcLo = 0x00#8 ∨ f.kcLo = 0xFF#8 → rowOfFrame f = .frameInvalidKc f.kcLo f.kcHi f.pressed)
        ∧ (f.kcHi = 0xFF#8 → f.kcLo.extractLsb' 4 4 ≠ 0xF#4 → rowOfFrame f = .frameInvalidKc f.kcLo f.kcHi f.pressed)
        ∧ (f.kcHi ≠ 0x00#8 → f.kcHi ≠ 0xFF#8 → rowOfFrame f = .frameInvalidKc f.kcLo f.kcHi f.pressed))

/-- Words written out from R61's layout and R67's rows (and 95_test_vectors.md section 2) decode to their rows. The two byte words
(0x69, 0x68) are R68's, which holds at IDX = 0; that a table byte is read there is the model's choice (log entry 9). -/
def Obligations.SampleWordsDecodeToTheirRows : Prop :=
  decodeTableWord 40 0x690400016E = some (.frameStdPress 0x04#8 0x01#8)
    ∧ decodeTableWord 40 0x690400006D = some (.frameStdRelease 0x04#8)
    ∧ decodeTableWord 40 0x69F7FF0160 = some (.frameMacro 0x7#16 0x01#8)
    ∧ decodeTableWord 40 0x690001016B = some (.frameInvalidKc 0x00#8 0x01#8 0x01#8)
    ∧ decodeTableWord 40 0x6904000100 = some (.frameBadsum 0x04#8 0x00#8 0x01#8 0x00#8)
    ∧ decodeTableWord 40 0x680400016E = some (.frameBadpre 0x68#8 0x04#8 0x00#8 0x01#8 0x6E#8)
    ∧ decodeTableWord 8 0x69 = some .byteSof
    ∧ decodeTableWord 8 0x68 = some (.byteHuntDiscard 0x68#8)

/-- A step runs the instruction its input decodes to, in the state whose schedule has moved on: a byte by IDX, a frame by its bytes,
Tick and KeyEvt by ROLE, RESET and a direct operation as themselves. That the schedule stands in State, and that a byte, a frame or
any operation may be an input beside R30's events (R30 says RXBYTE and FRAMEDONE are none), is the model's choice (log entry 8). -/
def Obligations.StepRunsTheDecodedInstruction : Prop :=
  ∀ (s : State) (rest : List Input),
    (∀ k b i, s.block = some k → s.inputs = .byte b :: rest → decodeBytes k.idx [b] = .ok i →
      step s = exec i { s with inputs := rest })
    ∧ (∀ k f i, s.block = some k → s.inputs = .frame f :: rest → decodeBytes k.idx (frameBytes f) = .ok i →
      step s = exec i { s with inputs := rest })
    ∧ (∀ i, s.inputs = .apply i :: rest → step s = exec i { s with inputs := rest })
    ∧ (∀ r, s.inputs = .event (.reset r) :: rest → step s = exec (.reset r) { s with inputs := rest })
    ∧ (∀ k, s.block = some k → s.inputs = .event .tick :: rest →
      (k.role = .master → step s = exec .tickMaster { s with inputs := rest })
      ∧ (k.role = .slave → step s = exec .tickSlave { s with inputs := rest }))
    ∧ (∀ k c p, s.block = some k → s.inputs = .event (.keyEvt c p) :: rest →
      (k.role = .master → step s = exec (.keyevtMaster c p) { s with inputs := rest })
      ∧ (k.role = .slave → step s = exec (.keyevtSlave c p) { s with inputs := rest }))

/-- The host's word interface, the model's choice (log entries 8 and 9): the step after `withFetchWord` runs the instruction `decodeTableWord` names, with the
receiver at IDX = 0. -/
def Obligations.StepAfterWithFetchWordRunsTheWord : Prop :=
  ∀ (nbits w : Nat) (i : Instr) (s : State) (k : Block), s.block = some k → decodeTableWord nbits w = some i →
    step (s.withFetchWord nbits w) = exec i { s with block := some { k with idx := 0 } }

/-- R80, R200, R201: an arrival appends its bytes to RXQ, in order, and runs no operation; with nothing scheduled nothing changes. The
schedule in State is the model's choice (log entry 8). -/
def Obligations.ArrivalsAppendAndIdleKeepsState : Prop :=
  ∀ (s : State),
    (∀ bs rest, s.inputs = .arrive bs :: rest → step s = .next { s with inputs := rest, rxq := s.rxq ++ bs })
    ∧ (s.inputs = [] → step s = .next s)
end

