-- ==== Sys2Proof/Laws/Codec.lean ====
section
/-! SUPPORT. The small facts of operand assembly, the checksum, the codec and the classifier, down to arithmetic on Nat. -/

namespace Sys2Proof.Machine

@[simp] theorem preambleByte_eq : preambleByte = 0x69#8 := rfl
@[simp] theorem nullLo_eq : nullLo = 0x0000#16 := rfl
@[simp] theorem nullHi_eq : nullHi = 0x00FF#16 := rfl
@[simp] theorem bandStart_eq : bandStart = 0xFFF0#16 := rfl
@[simp] theorem bandEnd_eq : bandEnd = 0xFFFF#16 := rfl

/-! Keycode and its bytes (R41, R63). -/

theorem keycodeLo_toNat (k : Keycode) : (keycodeLo k).toNat = k.toNat % 256 := by
  simp [keycodeLo]

theorem keycodeHi_toNat (k : Keycode) : (keycodeHi k).toNat = k.toNat / 256 := by
  have := k.isLt
  simp only [keycodeHi, BitVec.extractLsb'_toNat, Nat.shiftRight_eq_div_pow]
  omega

theorem keycodeOf_toNat (lo hi : Byte) : (keycodeOf lo hi).toNat = hi.toNat * 256 + lo.toNat := by
  have := lo.isLt; have := hi.isLt
  simp only [keycodeOf, BitVec.toNat_add, BitVec.toNat_mul, BitVec.toNat_setWidth, BitVec.toNat_ofNat]
  omega

@[simp] theorem keycodeOf_lo_hi (k : Keycode) : keycodeOf (keycodeLo k) (keycodeHi k) = k := by
  apply BitVec.eq_of_toNat_eq
  rw [keycodeOf_toNat, keycodeLo_toNat, keycodeHi_toNat]
  omega

@[simp] theorem keycodeLo_of (lo hi : Byte) : keycodeLo (keycodeOf lo hi) = lo := by
  have := lo.isLt
  apply BitVec.eq_of_toNat_eq
  rw [keycodeLo_toNat, keycodeOf_toNat]
  omega

@[simp] theorem keycodeHi_of (lo hi : Byte) : keycodeHi (keycodeOf lo hi) = hi := by
  have := lo.isLt
  apply BitVec.eq_of_toNat_eq
  rw [keycodeHi_toNat, keycodeOf_toNat]
  omega

@[simp] theorem pressedFlag_pressedByte (p : Bool) : pressedFlag (pressedByte p) = p := by
  cases p <;> rfl

/-! The checksum (R90, R91). -/

theorem checksum8_foldl (xs : List Byte) (a : Byte) :
    xs.foldl (fun acc x => acc + x) a = a + checksum8 xs := by
  induction xs generalizing a with
  | nil => simp [checksum8]
  | cons x xs ih =>
    simp only [checksum8, List.foldl_cons, ih (a + x), ih (0x00#8 + x)]
    rw [BitVec.zero_add, BitVec.add_assoc]

@[simp] theorem checksum8_nil : checksum8 [] = 0x00#8 := rfl

@[simp] theorem checksum8_cons (x : Byte) (xs : List Byte) : checksum8 (x :: xs) = x + checksum8 xs := by
  rw [checksum8, List.foldl_cons, checksum8_foldl, BitVec.zero_add]

/-- The checksum of frame bytes 0..3 as one sum. -/
theorem frameSum_eq (f : Frame) : frameSum f = f.preamble + f.kcLo + f.kcHi + f.pressed := by
  simp only [frameSum, checksum8_cons, checksum8_nil, BitVec.add_zero, BitVec.add_assoc]

@[simp] theorem sealedFrame_preamble (lo hi p : Byte) : (sealedFrame lo hi p).preamble = preambleByte := rfl
@[simp] theorem sealedFrame_kcLo (lo hi p : Byte) : (sealedFrame lo hi p).kcLo = lo := rfl
@[simp] theorem sealedFrame_kcHi (lo hi p : Byte) : (sealedFrame lo hi p).kcHi = hi := rfl
@[simp] theorem sealedFrame_pressed (lo hi p : Byte) : (sealedFrame lo hi p).pressed = p := rfl
@[simp] theorem sealedFrame_cksum (lo hi p : Byte) :
    (sealedFrame lo hi p).cksum = frameSum (sealedFrame lo hi p) := rfl

/-! Valid frames (R66). -/

@[simp] theorem isPreamble_iff (b : Byte) : isPreamble b = true ↔ b = preambleByte := by
  simp [isPreamble]

@[simp] theorem isPreamble_false_iff (b : Byte) : isPreamble b = false ↔ b ≠ preambleByte := by
  simp [isPreamble]

@[simp] theorem cksumMatches_iff (f : Frame) : cksumMatches f = true ↔ frameSum f = f.cksum := by
  simp [cksumMatches]

@[simp] theorem cksumMatches_false_iff (f : Frame) : cksumMatches f = false ↔ frameSum f ≠ f.cksum := by
  simp [cksumMatches]

/-- The valid frames are the sealed ones: bytes 1..3 free, bytes 0 and 4 determined (R66). -/
theorem isValidFrame_iff_sealed (f : Frame) :
    isValidFrame f = true ↔ f = sealedFrame f.kcLo f.kcHi f.pressed := by
  cases f
  simp only [isValidFrame, Bool.and_eq_true, isPreamble_iff, cksumMatches_iff, sealedFrame, frameSum, Frame.mk.injEq]
  constructor
  · rintro ⟨rfl, h⟩; exact ⟨rfl, trivial, trivial, trivial, h.symm⟩
  · rintro ⟨rfl, -, -, -, h⟩; exact ⟨rfl, h.symm⟩

theorem isValidFrame_sealed (lo hi p : Byte) : isValidFrame (sealedFrame lo hi p) = true := by
  simp [isValidFrame_iff_sealed]

/-- What DECODE returns, said once (R103). -/
theorem decodeFrame_eq (f : Frame) :
    decodeFrame f =
      if f.preamble ≠ preambleByte then .preambleMismatch
      else if frameSum f ≠ f.cksum then .checksumMismatch
      else .ok (keycodeOf f.kcLo f.kcHi) (pressedFlag f.pressed) := by
  by_cases h : f.preamble = preambleByte <;> by_cases h' : frameSum f = f.cksum <;>
    simp [decodeFrame, isPreamble, cksumMatches, h, h']

@[simp] theorem decodeFrame_sealed (lo hi p : Byte) :
    decodeFrame (sealedFrame lo hi p) = .ok (keycodeOf lo hi) (pressedFlag p) := by
  simp [decodeFrame_eq]

/-- What CLASSIFY returns, said once on Nat (R140, R141). -/
theorem classify_eq (c : Keycode) :
    classify c =
      if 1 ≤ c.toNat ∧ c.toNat ≤ 254 then .standardKey
      else if 0xFFF0 ≤ c.toNat then .remoteMacro (c.toNat - 0xFFF0 + 1)
      else .invalid := by
  have hb := c.isLt
  simp only [classify, isNullCode, isStandardCode, isMacroCode, nullLo_eq, nullHi_eq, bandStart_eq, bandEnd_eq,
    Bool.or_eq_true, Bool.and_eq_true, decide_eq_true_eq, beq_iff_eq, BitVec.lt_def, BitVec.le_def,
    ← BitVec.toNat_inj, BitVec.toNat_ofNat]
  norm_num
  grind

theorem isDeliverable_iff (c : Keycode) : isDeliverable c = true ↔ classify c ≠ .invalid := by
  unfold isDeliverable
  cases classify c <;> simp

@[simp] theorem macroCode_offset (c : Keycode) : macroCode (macroOffset c) = c := by
  simp [macroCode, macroOffset]

@[simp] theorem macroOffset_code (n : Keycode) : macroOffset (macroCode n) = n := by
  simp [macroCode, macroOffset, BitVec.add_comm]

@[simp] theorem wfMacroOffset_iff (n : Keycode) : wfMacroOffset n = true ↔ n.toNat < 16 :=
  decide_eq_true_iff

theorem macroCode_toNat {n : Keycode} (h : n.toNat < 16) : (macroCode n).toNat = 0xFFF0 + n.toNat := by
  simp only [macroCode, bandStart_eq, BitVec.toNat_add, BitVec.toNat_ofNat]
  omega

theorem classify_macroCode {n : Keycode} (h : n.toNat < 16) : classify (macroCode n) = .remoteMacro (n.toNat + 1) := by
  rw [classify_eq, macroCode_toNat h, if_neg (by omega), if_pos (by omega)]
  rw [Nat.add_sub_cancel_left]

/-- The offset of a code of the band names one of its BAND_SIZE codes. -/
theorem macroOffset_toNat {c : Keycode} (h : 0xFFF0 ≤ c.toNat) : (macroOffset c).toNat = c.toNat - 0xFFF0 := by
  have := c.isLt
  simp only [macroOffset, bandStart_eq, BitVec.toNat_sub, BitVec.toNat_ofNat]
  omega

/-- The codes CLASSIFY calls StandardKey have high byte 0 (D10). -/
theorem keycodeHi_of_standardKey {c : Keycode} (h : classify c = .standardKey) : keycodeHi c = 0x00#8 := by
  apply BitVec.eq_of_toNat_eq
  rw [keycodeHi_toNat]
  rw [classify_eq] at h
  grind

@[simp] theorem wfStdLo_iff (lo : Byte) : wfStdLo lo = true ↔ 1 ≤ lo.toNat ∧ lo.toNat ≤ 254 := by
  rw [wfStdLo, beq_iff_eq, classify_eq, keycodeOf_toNat]
  have := lo.isLt
  simp
  grind

/-! The row of a completed frame, said once per outcome of the tests (R67). -/

theorem rowOfFrame_badPreamble {f : Frame} (h : f.preamble ≠ preambleByte) :
    rowOfFrame f = .frameBadpre f.preamble f.kcLo f.kcHi f.pressed f.cksum := by
  rw [rowOfFrame, (isPreamble_false_iff _).2 h]; rfl

theorem rowOfFrame_badSum {f : Frame} (h : f.preamble = preambleByte) (h' : frameSum f ≠ f.cksum) :
    rowOfFrame f = .frameBadsum f.kcLo f.kcHi f.pressed f.cksum := by
  rw [rowOfFrame, (isPreamble_iff _).2 h, (cksumMatches_false_iff _).2 h']; rfl

theorem rowOfFrame_sealed (lo hi p : Byte) :
    rowOfFrame (sealedFrame lo hi p) =
      match classify (keycodeOf lo hi) with
      | .standardKey => if wfPressed p then .frameStdPress lo p else .frameStdRelease lo
      | .remoteMacro _ => .frameMacro (macroOffset (keycodeOf lo hi)) p
      | .invalid => .frameInvalidKc lo hi p := by
  rw [rowOfFrame, (isPreamble_iff _).2 (sealedFrame_preamble lo hi p), (cksumMatches_iff _).2 (sealedFrame_cksum lo hi p).symm]
  rfl

end Sys2Proof.Machine
end

