-- ==== Sys2Proof/Laws/State.lean ====
section
/-! SUPPORT. One lemma per field per update of the state and of the block, true by rfl. -/

namespace Sys2Proof.Machine

@[simp] theorem State.withBlock_block (s : State) (k : Block) : (s.withBlock k).block = some k := rfl
@[simp] theorem State.withBlock_rxq (s : State) (k : Block) : (s.withBlock k).rxq = s.rxq := rfl
@[simp] theorem State.withBlock_inputs (s : State) (k : Block) : (s.withBlock k).inputs = s.inputs := rfl
@[simp] theorem State.withBlock_trace (s : State) (k : Block) : (s.withBlock k).trace = s.trace := rfl
@[simp] theorem State.withBlock_returned (s : State) (k : Block) : (s.withBlock k).returned = s.returned := rfl
@[simp] theorem State.withBlock_draws (s : State) (k : Block) : (s.withBlock k).draws = s.draws := rfl

@[simp] theorem State.emit_block (s : State) (as : List Action) : (s.emit as).block = s.block := rfl
@[simp] theorem State.emit_rxq (s : State) (as : List Action) : (s.emit as).rxq = s.rxq := rfl
@[simp] theorem State.emit_inputs (s : State) (as : List Action) : (s.emit as).inputs = s.inputs := rfl
@[simp] theorem State.emit_trace (s : State) (as : List Action) : (s.emit as).trace = s.trace ++ as := rfl
@[simp] theorem State.emit_returned (s : State) (as : List Action) : (s.emit as).returned = s.returned := rfl
@[simp] theorem State.emit_draws (s : State) (as : List Action) : (s.emit as).draws = s.draws := rfl

@[simp] theorem State.answer_block (s : State) (v : Value) : (s.answer v).block = s.block := rfl
@[simp] theorem State.answer_rxq (s : State) (v : Value) : (s.answer v).rxq = s.rxq := rfl
@[simp] theorem State.answer_inputs (s : State) (v : Value) : (s.answer v).inputs = s.inputs := rfl
@[simp] theorem State.answer_trace (s : State) (v : Value) : (s.answer v).trace = s.trace := rfl
@[simp] theorem State.answer_returned (s : State) (v : Value) : (s.answer v).returned = s.returned ++ [v] := rfl
@[simp] theorem State.answer_draws (s : State) (v : Value) : (s.answer v).draws = s.draws := rfl

@[simp] theorem State.receive_block (s : State) (bs : List Byte) : (s.receive bs).block = s.block := rfl
@[simp] theorem State.receive_rxq (s : State) (bs : List Byte) : (s.receive bs).rxq = s.rxq ++ bs := rfl
@[simp] theorem State.receive_inputs (s : State) (bs : List Byte) : (s.receive bs).inputs = s.inputs := rfl
@[simp] theorem State.receive_trace (s : State) (bs : List Byte) : (s.receive bs).trace = s.trace := rfl
@[simp] theorem State.receive_returned (s : State) (bs : List Byte) : (s.receive bs).returned = s.returned := rfl
@[simp] theorem State.receive_draws (s : State) (bs : List Byte) : (s.receive bs).draws = s.draws := rfl

@[simp] theorem State.emptied_block (s : State) : s.emptied.block = s.block := rfl
@[simp] theorem State.emptied_rxq (s : State) : s.emptied.rxq = [] := rfl
@[simp] theorem State.emptied_inputs (s : State) : s.emptied.inputs = s.inputs := rfl
@[simp] theorem State.emptied_trace (s : State) : s.emptied.trace = s.trace := rfl
@[simp] theorem State.emptied_returned (s : State) : s.emptied.returned = s.returned := rfl
@[simp] theorem State.emptied_draws (s : State) : s.emptied.draws = s.draws := rfl

@[simp] theorem State.schedule_block (s : State) (rest : List Input) : (s.schedule rest).block = s.block := rfl
@[simp] theorem State.schedule_rxq (s : State) (rest : List Input) : (s.schedule rest).rxq = s.rxq := rfl
@[simp] theorem State.schedule_inputs (s : State) (rest : List Input) : (s.schedule rest).inputs = rest := rfl
@[simp] theorem State.schedule_trace (s : State) (rest : List Input) : (s.schedule rest).trace = s.trace := rfl
@[simp] theorem State.schedule_returned (s : State) (rest : List Input) : (s.schedule rest).returned = s.returned := rfl
@[simp] theorem State.schedule_draws (s : State) (rest : List Input) : (s.schedule rest).draws = s.draws := rfl

@[simp] theorem Block.store_role (k : Block) (b : Byte) : (k.store b).role = k.role := rfl
@[simp] theorem Block.store_idx (k : Block) (b : Byte) : (k.store b).idx = k.idx := rfl
@[simp] theorem Block.store_buf (k : Block) (b : Byte) : (k.store b).buf = slotSet k.buf k.idx b := rfl

@[simp] theorem Block.goto_role (k : Block) (i : Idx) : (k.goto i).role = k.role := rfl
@[simp] theorem Block.goto_idx (k : Block) (i : Idx) : (k.goto i).idx = i := rfl
@[simp] theorem Block.goto_buf (k : Block) (i : Idx) : (k.goto i).buf = k.buf := rfl

/-- An update that names the whole field is the update by name. -/
theorem State.withBlock_of_eq {s : State} {k : Block} (h : s.block = some k) : s.withBlock k = s := by
  cases s; subst h; rfl

@[simp] theorem State.emit_nil (s : State) : s.emit [] = s := by
  cases s; simp [State.emit]

@[simp] theorem State.emit_emit (s : State) (as bs : List Action) : (s.emit as).emit bs = s.emit (as ++ bs) := by
  simp [State.emit]

@[simp] theorem State.withBlock_withBlock (s : State) (k l : Block) : (s.withBlock k).withBlock l = s.withBlock l := rfl

@[simp] theorem State.receive_nil (s : State) : s.receive [] = s := by
  cases s; simp [State.receive]

@[simp] theorem State.receive_receive (s : State) (xs ys : List Byte) : (s.receive xs).receive ys = s.receive (xs ++ ys) := by
  simp [State.receive]

/-- Reading a slot register after a write: the value written at its index, the old value elsewhere (R21). -/
@[simp] theorem slotGet_slotSet (f : Frame) (i j : Idx) (v : Byte) :
    slotGet (slotSet f i v) j = if j = i then v else slotGet f j := by
  fin_cases i <;> fin_cases j <;> rfl

theorem slotSet_zero (f : Frame) (v : Byte) : slotSet f 0 v = { f with preamble := v } := rfl

theorem slotSet_four (f : Frame) (v : Byte) : slotSet f 4 v = { f with cksum := v } := rfl

/-- Two frame slots with equal registers are equal. -/
theorem frame_ext_slot {f g : Frame} (h : ∀ j, slotGet f j = slotGet g j) : f = g := by
  cases f; cases g
  have h0 := h 0; have h1 := h 1; have h2 := h 2; have h3 := h 3; have h4 := h 4
  simp only [slotGet] at h0 h1 h2 h3 h4
  simp [h0, h1, h2, h3, h4]

end Sys2Proof.Machine
end

