-- ==== Sys2Proof/Laws/Ops.lean ====
section
/-! SUPPORT. One lemma per shared operation saying everything it can do; later proofs cite these and do not unfold. -/

namespace Sys2Proof.Machine

/-! The gates. -/

theorem onBlock_some {s : State} {k : Block} (h : s.block = some k) (f : Block → Result) : onBlock s f = f k := by
  simp [onBlock, h]

theorem onBlock_none {s : State} (h : s.block = none) (f : Block → Result) : onBlock s f = .refused .beforeReset := by
  simp [onBlock, h]

theorem onReceiver_master {s : State} {k : Block} (h : s.block = some k) (hr : k.role = .master)
    (f : Block → Block × List Action) : onReceiver s f = .next ((s.withBlock (f k).1).emit (f k).2) := by
  simp [onReceiver, onBlock_some h, hr]

theorem onReceiver_slave {s : State} {k : Block} (h : s.block = some k) (hr : k.role = .slave)
    (f : Block → Block × List Action) : onReceiver s f = .next s := by
  simp [onReceiver, onBlock_some h, hr]

theorem returning_some {s : State} {k : Block} (h : s.block = some k) (v : Value) :
    returning s v = .next (s.answer v) := by
  simp [returning, onBlock_some h]

/-! FRAMEDONE's actions (R157). -/

theorem frameActions_badPreamble {f : Frame} (h : f.preamble ≠ preambleByte) :
    frameActions f = [.diag (.syncError f.preamble)] := by
  simp only [frameActions, decodeFrame_eq, if_pos h, raise]

theorem frameActions_badSum {f : Frame} (h : f.preamble = preambleByte) (h' : frameSum f ≠ f.cksum) :
    frameActions f = [.diag (.checksumMismatch f (frameSum f) f.cksum)] := by
  simp only [frameActions, decodeFrame_eq, h, ne_eq, not_true, if_false, if_pos h', raise]

/-- The actions of a valid frame: its class decides (R159 to R161). -/
theorem frameActions_sealed (lo hi p : Byte) :
    frameActions (sealedFrame lo hi p) =
      match classify (keycodeOf lo hi) with
      | .standardKey => if pressedFlag p then [.assertKey (keycodeOf lo hi)] else [.releaseKey (keycodeOf lo hi)]
      | .remoteMacro _ => [.raiseKeyEvent (keycodeOf lo hi) (pressedFlag p)]
      | .invalid => [] := by
  cases h : classify (keycodeOf lo hi) <;> simp [frameActions, h]

theorem frameActions_length (f : Frame) : (frameActions f).length ≤ 1 := by
  unfold frameActions raise
  split
  · simp
  · simp
  · split
    · split <;> simp
    · simp
    · simp

/-! RXBYTE: everything one byte can do (R120 to R124). -/

theorem rxByte_discard {b : Byte} {k : Block} (h : k.idx = 0) (hb : b ≠ preambleByte) :
    rxByte b k = (k, [.diag (.syncError b)]) := by
  rw [rxByte, if_pos ⟨h, (isPreamble_false_iff b).2 hb⟩, raise]

theorem rxByte_start {k : Block} (h : k.idx = 0) : rxByte preambleByte k = ((k.store preambleByte).goto 1, []) := by
  rw [rxByte, if_neg (by simp), if_pos h]

theorem rxByte_data (b : Byte) {k : Block} (h : k.idx ≠ 0) (h' : k.idx ≠ 4) :
    rxByte b k = ((k.store b).goto (k.idx + 1), []) := by
  have hlt : k.idx < 4 := by
    have := k.idx.isLt
    have h4 : k.idx.val ≠ 4 := fun e => h' (Fin.ext e)
    exact Fin.lt_def.2 (show k.idx.val < 4 by omega)
  rw [rxByte, if_neg (by simp [h]), if_neg h, if_pos hlt]

theorem rxByte_last (b : Byte) {k : Block} (h : k.idx = 4) :
    rxByte b k = ((k.store b).goto 0, frameActions (k.store b).buf) := by
  have h0 : k.idx ≠ 0 := by rw [h]; decide
  have h4 : ¬ k.idx < 4 := by rw [h]; decide
  rw [rxByte, if_neg (by simp [h0]), if_neg h0, if_neg h4]

/-- The four cases together. -/
theorem rxByte_cases (b : Byte) (k : Block) :
    (k.idx = 0 ∧ b ≠ preambleByte ∧ rxByte b k = (k, [.diag (.syncError b)])) ∨
    (k.idx = 0 ∧ b = preambleByte ∧ rxByte b k = ((k.store b).goto 1, [])) ∨
    (k.idx ≠ 0 ∧ k.idx ≠ 4 ∧ rxByte b k = ((k.store b).goto (k.idx + 1), [])) ∨
    (k.idx = 4 ∧ rxByte b k = ((k.store b).goto 0, frameActions (k.store b).buf)) := by
  by_cases h : k.idx = 0
  · by_cases hb : b = preambleByte
    · subst hb; exact .inr (.inl ⟨h, rfl, rxByte_start h⟩)
    · exact .inl ⟨h, hb, rxByte_discard h hb⟩
  · by_cases h4 : k.idx = 4
    · exact .inr (.inr (.inr ⟨h4, rxByte_last b h4⟩))
    · exact .inr (.inr (.inl ⟨h, h4, rxByte_data b h h4⟩))

@[simp] theorem rxByte_role (b : Byte) (k : Block) : (rxByte b k).1.role = k.role := by
  obtain ⟨_, _, h⟩ | ⟨_, _, h⟩ | ⟨_, _, h⟩ | ⟨_, h⟩ := rxByte_cases b k <;> simp [h]

/-! TICK's loop (R151). -/

@[simp] theorem drain_nil (k : Block) : drain [] k = (k, []) := rfl

theorem drain_cons (b : Byte) (xs : List Byte) (k : Block) :
    drain (b :: xs) k = ((drain xs (rxByte b k).1).1, (rxByte b k).2 ++ (drain xs (rxByte b k).1).2) := rfl

/-- The loop over a concatenation is the loop over its parts, one after the other. -/
theorem drain_append (xs ys : List Byte) (k : Block) :
    drain (xs ++ ys) k = ((drain ys (drain xs k).1).1, (drain xs k).2 ++ (drain ys (drain xs k).1).2) := by
  induction xs generalizing k with
  | nil => simp
  | cons b xs ih => simp [drain_cons, ih]

@[simp] theorem drain_role (xs : List Byte) (k : Block) : (drain xs k).1.role = k.role := by
  induction xs generalizing k with
  | nil => rfl
  | cons b xs ih => rw [drain_cons, ih, rxByte_role]

theorem tick_slave {s : State} {k : Block} (h : s.block = some k) (hr : k.role = .slave) : tick s = .next s := by
  simp [tick, onBlock_some h, hr]

theorem tick_master {s : State} {k : Block} (h : s.block = some k) (hr : k.role = .master) :
    tick s = .next ((s.emptied.withBlock (drain s.rxq k).1).emit (drain s.rxq k).2) := by
  simp [tick, onBlock_some h, hr]

theorem keyEvt_master {s : State} {k : Block} (h : s.block = some k) (hr : k.role = .master) (c : Keycode) (p : Bool) :
    keyEvt c p s = .next s := by
  simp [keyEvt, onBlock_some h, hr]

theorem keyEvt_slave {s : State} {k : Block} (h : s.block = some k) (hr : k.role = .slave) (c : Keycode) (p : Bool) :
    keyEvt c p s = .next (s.emit (if isDeliverable c then txFrame (encodeFrame c p) else [])) := by
  simp only [keyEvt, onBlock_some h, hr]
  split <;> simp

end Sys2Proof.Machine
end

