-- ==== Sys2Proof/Laws/Exec.lean ====
section
/-! SUPPORT. Everything an instruction other than RESET can do, said once: its effect is a new block, a new RXQ, and what it
appends to the trace and to the returned values, and these depend on the block and RXQ alone. -/

namespace Sys2Proof.Machine

/-- The effect of an instruction on a state. -/
structure Effect where
  block    : Block
  rxq      : List Byte
  actions  : List Action
  answers  : List Value
  deriving DecidableEq, Repr

/-- A state with an effect applied. -/
def State.after (s : State) (e : Effect) : State :=
  { s with block := some e.block, rxq := e.rxq, trace := s.trace ++ e.actions, returned := s.returned ++ e.answers }

theorem State.after_none {s : State} {k : Block} (h : s.block = some k) : s.after ⟨k, s.rxq, [], []⟩ = s := by
  cases s; subst h; simp [State.after]

/-- The receiver's gate as an effect. -/
theorem onReceiver_effect (k : Block) (q : List Byte) (f : Block → Block × List Action) :
    ∃ e : Effect, ∀ s : State, s.block = some k → s.rxq = q → onReceiver s f = .next (s.after e) := by
  cases hr : k.role with
  | master =>
    refine ⟨⟨(f k).1, q, (f k).2, []⟩, ?_⟩
    rintro s hs rfl
    rw [onReceiver_master hs hr]
    simp [State.after, State.withBlock, State.emit]
  | slave =>
    refine ⟨⟨k, q, [], []⟩, ?_⟩
    rintro s hs rfl
    rw [onReceiver_slave hs hr, State.after_none hs]

/-- A pure function as an effect. -/
theorem returning_effect (k : Block) (q : List Byte) (v : Value) :
    ∃ e : Effect, ∀ s : State, s.block = some k → s.rxq = q → returning s v = .next (s.after e) := by
  refine ⟨⟨k, q, [], [v]⟩, ?_⟩
  rintro s hs rfl
  rw [returning_some hs]
  simp [State.after, State.answer, ← hs]

/-- Tick as an effect. -/
theorem tick_effect (k : Block) (q : List Byte) :
    ∃ e : Effect, ∀ s : State, s.block = some k → s.rxq = q → tick s = .next (s.after e) := by
  cases hr : k.role with
  | master =>
    refine ⟨⟨(drain q k).1, [], (drain q k).2, []⟩, ?_⟩
    rintro s hs rfl
    rw [tick_master hs hr]
    simp [State.after, State.withBlock, State.emit, State.emptied]
  | slave =>
    refine ⟨⟨k, q, [], []⟩, ?_⟩
    rintro s hs rfl
    rw [tick_slave hs hr, State.after_none hs]

/-- KeyEvt as an effect. -/
theorem keyEvt_effect (k : Block) (q : List Byte) (c : Keycode) (p : Bool) :
    ∃ e : Effect, ∀ s : State, s.block = some k → s.rxq = q → keyEvt c p s = .next (s.after e) := by
  cases hr : k.role with
  | master =>
    refine ⟨⟨k, q, [], []⟩, ?_⟩
    rintro s hs rfl
    rw [keyEvt_master hs hr, State.after_none hs]
  | slave =>
    refine ⟨⟨k, q, if isDeliverable c then txFrame (encodeFrame c p) else [], []⟩, ?_⟩
    rintro s hs rfl
    rw [keyEvt_slave hs hr]
    simp [State.after, State.emit, ← hs]

/-- Every instruction but RESET, once the block has been RESET. -/
theorem exec_effect (i : Instr) (hi : ∀ r, i ≠ .reset r) (k : Block) (q : List Byte) :
    ∃ e : Effect, ∀ s : State, s.block = some k → s.rxq = q → exec i s = .next (s.after e) := by
  cases i
  case reset r => exact absurd rfl (hi r)
  case tickMaster => exact tick_effect k q
  case tickSlave => exact tick_effect k q
  case keyevtSlave c p => exact keyEvt_effect k q c p
  case keyevtMaster c p => exact keyEvt_effect k q c p
  all_goals first | exact onReceiver_effect k q _ | exact returning_effect k q _

end Sys2Proof.Machine
end

