-- ==== Sys2Proof/Laws/PerInstr.lean ====
section
/-! SUPPORT. The per-instruction family EncodedWidth: the encoder gives a row as many bits as spec/opcode_table.json's
width_bits column says, and none to a row whose width is null. -/

namespace Sys2Proof.Laws.EncodedWidth

/-- The width_bits column. -/
def tableWidth : Instr → Option Nat
  | .frame _ _ _ _ | .frameStdPress _ _ | .frameStdRelease _ | .frameMacro _ _ => some 40
  | .frameInvalidKc _ _ _ | .frameBadsum _ _ _ _ | .frameBadpre _ _ _ _ _ => some 40
  | .byteSof | .byteHuntDiscard _ | .byteData _ | .byteLast _ => some 8
  | .checksum8 _ | .encode _ _ | .decode _ | .classify _ => none
  | .rxbyte _ | .framedone | .tickMaster | .tickSlave => none
  | .keyevtSlave _ _ | .keyevtMaster _ _ | .reset _ => none

/-- The encoding of i has the table's width. -/
def Statement (i : Instr) : Prop :=
  (Sys2Proof.encode i).map (fun bs => 8 * bs.length) = tableWidth i

theorem frame (lo hi p c : Byte) : Statement (.frame lo hi p c) := rfl
theorem frameStdPress (lo p : Byte) : Statement (.frameStdPress lo p) := rfl
theorem frameStdRelease (lo : Byte) : Statement (.frameStdRelease lo) := rfl
theorem frameInvalidKc (lo hi p : Byte) : Statement (.frameInvalidKc lo hi p) := rfl
theorem frameBadsum (lo hi p c : Byte) : Statement (.frameBadsum lo hi p c) := rfl
theorem frameBadpre (first lo hi p c : Byte) : Statement (.frameBadpre first lo hi p c) := rfl
theorem frameMacro (n : Keycode) (p : Byte) : Statement (.frameMacro n p) := rfl
theorem byteSof : Statement (.byteSof) := rfl
theorem byteHuntDiscard (b : Byte) : Statement (.byteHuntDiscard b) := rfl
theorem byteData (b : Byte) : Statement (.byteData b) := rfl
theorem byteLast (b : Byte) : Statement (.byteLast b) := rfl
theorem checksum8 (xs : List Byte) : Statement (.checksum8 xs) := rfl
theorem encode (k : Keycode) (p : Bool) : Statement (.encode k p) := rfl
theorem decode (f : Frame) : Statement (.decode f) := rfl
theorem classify (c : Keycode) : Statement (.classify c) := rfl
theorem rxbyte (b : Byte) : Statement (.rxbyte b) := rfl
theorem framedone : Statement (.framedone) := rfl
theorem tickMaster : Statement (.tickMaster) := rfl
theorem tickSlave : Statement (.tickSlave) := rfl
theorem keyevtSlave (k : Keycode) (p : Bool) : Statement (.keyevtSlave k p) := rfl
theorem keyevtMaster (k : Keycode) (p : Bool) : Statement (.keyevtMaster k p) := rfl
theorem reset (r : Role) : Statement (.reset r) := rfl

end Sys2Proof.Laws.EncodedWidth
end

