-- ==== Sys2Proof/Laws/Step.lean ====
section
/-! SUPPORT. What a step does for each head of the schedule, the cases of a step that answers a next state, and runs of steps. -/

namespace Sys2Proof.Machine

theorem step_idle {s : State} (h : s.inputs = []) : step s = .next s := by
  simp [step, fetch, h]

theorem step_arrive {s : State} {bs : List Byte} {rest : List Input} (h : s.inputs = .arrive bs :: rest) :
    step s = .next ((s.schedule rest).receive bs) := by
  simp [step, fetch, h]

/-- An input that stands for an instruction runs it, in the state whose schedule has moved on. -/
theorem step_instr {s : State} {x : Input} {rest : List Input} {i : Instr} (h : s.inputs = x :: rest)
    (hi : instrOf s.block x = some i) : step s = exec i (s.schedule rest) := by
  cases x <;> simp_all [step, fetch]; simp [instrOf] at hi

/-- An input that needs the block's state, before the first RESET. -/
theorem step_noBlock {s : State} {x : Input} {rest : List Input} (h : s.inputs = x :: rest)
    (ha : ∀ bs, x ≠ .arrive bs) (hi : instrOf s.block x = none) : step s = .refused .beforeReset := by
  cases x <;> simp_all [step, fetch]

/-- After RESET every input but an arrival stands for an instruction. -/
theorem instrOf_some (k : Block) (x : Input) (ha : ∀ bs, x ≠ .arrive bs) : ∃ i, instrOf (some k) x = some i := by
  cases x with
  | event e => cases e <;> simp [instrOf]
  | arrive bs => exact absurd rfl (ha bs)
  | byte b => simp [instrOf]
  | frame f => simp [instrOf]
  | apply i => simp [instrOf]

/-- Everything a step that answers a next state can have been. -/
theorem step_cases {s t : State} (e : step s = .next t) :
    (s.inputs = [] ∧ t = s)
    ∨ (∃ bs rest, s.inputs = .arrive bs :: rest ∧ t = (s.schedule rest).receive bs)
    ∨ (∃ i x rest, s.inputs = x :: rest ∧ instrOf s.block x = some i ∧ exec i (s.schedule rest) = .next t) := by
  rcases hx : s.inputs with _ | ⟨x, rest⟩
  · rw [step_idle hx] at e
    cases e
    exact .inl ⟨rfl, rfl⟩
  · by_cases ha : ∃ bs, x = .arrive bs
    · obtain ⟨bs, rfl⟩ := ha
      rw [step_arrive hx] at e
      cases e
      exact .inr (.inl ⟨bs, rest, rfl, rfl⟩)
    · cases hi : instrOf s.block x with
      | none => rw [step_noBlock hx (fun bs h => ha ⟨bs, h⟩) hi] at e; cases e
      | some i => rw [step_instr hx hi] at e; exact .inr (.inr ⟨i, x, rest, rfl, hi, e⟩)

theorem runSteps_zero (s : State) : runSteps 0 s = .next s := rfl

theorem runSteps_succ {s t : State} (h : step s = .next t) (n : Nat) : runSteps (n + 1) s = runSteps n t := by
  have h' : Sys2Proof.core.step s = .next t := h
  exact (Host.Core.run.eq_2 Sys2Proof.core s n).trans (by rw [h'])

end Sys2Proof.Machine
end

