-- ==== Sys2Proof/Tests/Slice0.lean ====
section
/-! SUPPORT. Tests by hand from the spec's own examples (95_test_vectors.md) and tables: words decoded, ill-formed terms refused,
one step per operation, and for every statement with hypotheses a state and operands that meet them. -/

namespace Sys2Proof.Tests

open Sys2Proof Sys2Proof.Machine

/-! ## Helpers: small states and the parts of a result that a test looks at -/

/-- A block in a role at a position with a slot. -/
def blockAt (r : Role) (i : Idx) (f : Frame) : Block :=
  { role := r, idx := i, buf := f }

/-- The slot `69 04 00 01 --` of 95_test_vectors.md 3.1 with a stale last byte. -/
def slot4 : Frame := ⟨0x69#8, 0x04#8, 0x00#8, 0x01#8, 0xAA#8⟩

/-- A Master at a position with that slot and a receive queue. -/
def master (i : Idx) (rxq : List Byte) : State :=
  { State.reset with block := some (blockAt .master i slot4), rxq := rxq }

/-- A Slave just after RESET. -/
def slave : State := State.afterReset .slave

def traceOf : Result → Option (List Action)
  | .next s => some s.trace
  | .fault _ => none
  | .refused _ => none

def idxOf : Result → Option Idx
  | .next s => s.block.map Block.idx
  | .fault _ => none
  | .refused _ => none

def bufOf : Result → Option Frame
  | .next s => s.block.map Block.buf
  | .fault _ => none
  | .refused _ => none

def rxqOf : Result → Option (List Byte)
  | .next s => some s.rxq
  | .fault _ => none
  | .refused _ => none

def returnedOf : Result → Option (List Value)
  | .next s => some s.returned
  | .fault _ => none
  | .refused _ => none

/-! ## The configuration record (R6) and well-formedness -/

theorem test_params_meet_R6 : params.check = true := by decide

theorem test_R6_refuses_band_of_17 : { params with bandStart := 0xFFEF#16 }.check = false := by decide

/-- The audit C1 speaks of: a band of 17 codes from 0xFFEF is a record that R6 admits. -/
theorem test_R6_admits_the_other_band : { params with bandStart := 0xFFEF#16, bandSize := 17 }.check = true := by decide

theorem test_R6_refuses_wide_standard_keys :
    { params with stdMax := 0x01FE#16, nullHi := 0x01FF#16 }.check = false := by decide

theorem test_wf_macro_above_band : (Instr.frameMacro 0x10#16 0x01#8).wf = false := by decide
theorem test_wf_std_press_null : (Instr.frameStdPress 0x00#8 0x01#8).wf = false := by decide
theorem test_wf_std_press_ff : (Instr.frameStdPress 0xFF#8 0x01#8).wf = false := by decide
theorem test_wf_std_press_released : (Instr.frameStdPress 0x04#8 0x00#8).wf = false := by decide
theorem test_wf_std_release_null : (Instr.frameStdRelease 0x00#8).wf = false := by decide
theorem test_wf_invalid_kc_standard : (Instr.frameInvalidKc 0x04#8 0x00#8 0x01#8).wf = false := by decide
theorem test_wf_badsum_right_sum : (Instr.frameBadsum 0x04#8 0x00#8 0x01#8 0x6E#8).wf = false := by decide
theorem test_wf_badpre_preamble : (Instr.frameBadpre 0x69#8 0x04#8 0x00#8 0x01#8 0x6E#8).wf = false := by decide
theorem test_wf_hunt_discard_preamble : (Instr.byteHuntDiscard 0x69#8).wf = false := by decide

/-! ## Decoding: words written out from R61's layout, `01101001 llllllll hhhhhhhh pppppppp cccccccc` -/

theorem test_decode_std_press :
    decodeTableWord 40 0b0110100100000100000000000000000101101110 = some (.frameStdPress 0x04#8 0x01#8) := by decide
theorem test_decode_std_press_noncanonical : decodeTableWord 40 0x690400FF6C = some (.frameStdPress 0x04#8 0xFF#8) := by decide
theorem test_decode_std_release : decodeTableWord 40 0x69FE000067 = some (.frameStdRelease 0xFE#8) := by decide
theorem test_decode_macro_first : decodeTableWord 40 0x69F0FF0159 = some (.frameMacro 0x0#16 0x01#8) := by decide
theorem test_decode_macro_last : decodeTableWord 40 0x69FFFF0067 = some (.frameMacro 0xF#16 0x00#8) := by decide
theorem test_decode_invalid_below_band : decodeTableWord 40 0x69EFFF0158 = some (.frameInvalidKc 0xEF#8 0xFF#8 0x01#8) := by decide
theorem test_decode_invalid_ff : decodeTableWord 40 0x69FF000169 = some (.frameInvalidKc 0xFF#8 0x00#8 0x01#8) := by decide
theorem test_decode_badsum : decodeTableWord 40 0x690400016F = some (.frameBadsum 0x04#8 0x00#8 0x01#8 0x6F#8) := by decide
theorem test_decode_badpre : decodeTableWord 40 0x680400016D = some (.frameBadpre 0x68#8 0x04#8 0x00#8 0x01#8 0x6D#8) := by decide
theorem test_decode_sof : decodeTableWord 8 0b01101001 = some .byteSof := by decide
theorem test_decode_hunt_discard : decodeTableWord 8 0x68 = some (.byteHuntDiscard 0x68#8) := by decide
theorem test_decode_data_preamble : (decodeBytes 2 [0x69#8]).toOption = some (.byteData 0x69#8) := by decide
theorem test_decode_last_preamble : (decodeBytes 4 [0x69#8]).toOption = some (.byteLast 0x69#8) := by decide
theorem test_encode_frame_row : encode (.frame 0x34#8 0x12#8 0x01#8 0xB0#8) = some [0x69#8, 0x34#8, 0x12#8, 0x01#8, 0xB0#8] := by decide
theorem test_decode_no_row_of_two_bytes : (decodeBytes 0 [0x69#8, 0x04#8]).toOption = none := by decide
theorem test_word_of_frame : frameWord (encodeFrame 0xFFFF#16 true) = 0x69FFFF0168 := by decide

/-! ## The pure rows (95_test_vectors.md 2.1 to 2.5) -/

theorem test_checksum8_wraps : returnedOf (exec (.checksum8 [0x69#8, 0xFF#8, 0xFF#8, 0x01#8]) State.reset) = some [.byte 0x68#8] := by decide
theorem test_checksum8_empty : returnedOf (exec (.checksum8 []) State.reset) = some [.byte 0x00#8] := by decide
theorem test_encode_little_endian :
    returnedOf (exec (.encode 0x1234#16 true) State.reset) = some [.frame ⟨0x69#8, 0x34#8, 0x12#8, 0x01#8, 0xB0#8⟩] := by decide
theorem test_encode_release_wraps :
    returnedOf (exec (.encode 0x00FE#16 false) State.reset) = some [.frame ⟨0x69#8, 0xFE#8, 0x00#8, 0x00#8, 0x67#8⟩] := by decide
theorem test_decode_preamble_first :
    returnedOf (exec (.decode ⟨0x68#8, 0x04#8, 0x00#8, 0x01#8, 0x6E#8⟩) State.reset) = some [.decoded .preambleMismatch] := by decide
theorem test_decode_noncanonical_pressed :
    returnedOf (exec (.decode ⟨0x69#8, 0x04#8, 0x00#8, 0x02#8, 0x6F#8⟩) State.reset) = some [.decoded (.ok 0x0004#16 true)] := by decide
theorem test_classify_band_start : returnedOf (exec (.classify 0xFFF0#16) State.reset) = some [.keyClass (.remoteMacro 1)] := by decide
theorem test_classify_below_band : returnedOf (exec (.classify 0xFFEF#16) State.reset) = some [.keyClass .invalid] := by decide
theorem test_frame_row_checksum :
    returnedOf (exec (.frame 0x04#8 0x00#8 0x00#8 0x6E#8) State.reset) = some [.decoded .checksumMismatch] := by decide
theorem test_frame_row_ok :
    returnedOf (exec (.frame 0xFF#8 0xFF#8 0x01#8 0x68#8) State.reset) = some [.decoded (.ok 0xFFFF#16 true)] := by decide

/-! ## The frame rows and FRAMEDONE (44_dispatcher.md R157 to R162) -/

theorem test_std_press : traceOf (exec (.frameStdPress 0x04#8 0x02#8) (master 4 [])) = some [.assertKey 0x0004#16] := by decide
theorem test_std_release_idx : idxOf (exec (.frameStdRelease 0x04#8) (master 4 [])) = some 0 := by decide
theorem test_macro_release : traceOf (exec (.frameMacro 0xF#16 0x00#8) (master 4 [])) = some [.raiseKeyEvent 0xFFFF#16 false] := by decide
theorem test_invalid_kc_silent : traceOf (exec (.frameInvalidKc 0x00#8 0x01#8 0x01#8) (master 4 [])) = some [] := by decide
theorem test_badsum_payload :
    traceOf (exec (.frameBadsum 0x04#8 0x00#8 0x01#8 0x00#8) (master 4 [])) =
      some [.diag (.checksumMismatch ⟨0x69#8, 0x04#8, 0x00#8, 0x01#8, 0x00#8⟩ 0x6E#8 0x00#8)] := by decide
theorem test_badpre_folds_into_sync_error :
    traceOf (exec (.frameBadpre 0x68#8 0x04#8 0x00#8 0x01#8 0x6E#8) (master 4 [])) = some [.diag (.syncError 0x68#8)] := by decide
theorem test_framedone_keeps_idx : idxOf (exec .framedone (master 4 [])) = some 4 := by decide
theorem test_framedone_reports_stale_checksum :
    traceOf (exec .framedone (master 4 [])) = some [.diag (.checksumMismatch slot4 0x6E#8 0xAA#8)] := by decide

/-! ## The byte rows (95_test_vectors.md 3.1) -/

theorem test_sof_stores_preamble :
    bufOf (exec .byteSof { master 0 [] with block := some (blockAt .master 0 ⟨0x00#8, 0x04#8, 0x00#8, 0x01#8, 0xAA#8⟩) }) = some slot4 := by decide
theorem test_hunt_discard_one_bit_off : traceOf (exec (.byteHuntDiscard 0x68#8) (master 0 [])) = some [.diag (.syncError 0x68#8)] := by decide
theorem test_data_stores_preamble_value :
    bufOf (exec (.byteData 0x69#8) (master 2 [])) = some ⟨0x69#8, 0x04#8, 0x69#8, 0x01#8, 0xAA#8⟩ := by decide
theorem test_last_asserts : traceOf (exec (.byteLast 0x6E#8) (master 4 [])) = some [.assertKey 0x0004#16] := by decide
theorem test_last_stores : bufOf (exec (.byteLast 0x6E#8) (master 4 [])) = some ⟨0x69#8, 0x04#8, 0x00#8, 0x01#8, 0x6E#8⟩ := by decide
theorem test_rxbyte_preamble_as_checksum :
    traceOf (exec (.rxbyte 0x69#8) (master 4 [])) =
      some [.diag (.checksumMismatch ⟨0x69#8, 0x04#8, 0x00#8, 0x01#8, 0x69#8⟩ 0x6E#8 0x69#8)] := by decide
theorem test_rxbyte_advances : idxOf (exec (.rxbyte 0x01#8) (master 3 [])) = some 4 := by decide

/-! ## Events (95_test_vectors.md 3.2, 3.3) -/

/-- V3.3 up to the lost frame: a preamble value inside the garbage swallows the next preamble. -/
theorem test_tick_master_false_lock :
    traceOf (exec .tickMaster (master 0 [0x00#8, 0x69#8, 0x69#8, 0x04#8, 0x00#8, 0x00#8, 0x6D#8])) =
      some [.diag (.syncError 0x00#8),
        .diag (.checksumMismatch ⟨0x69#8, 0x69#8, 0x04#8, 0x00#8, 0x00#8⟩ 0xD6#8 0x00#8), .diag (.syncError 0x6D#8)] := by decide

/-- P4: a tick may end inside a frame. -/
theorem test_tick_master_partial_frame : idxOf (exec .tickMaster (master 4 [0x6E#8, 0x69#8])) = some 1 := by decide

theorem test_tick_slave_leaves_rxq : rxqOf (exec .tickSlave { slave with rxq := [0x69#8, 0x04#8] }) = some [0x69#8, 0x04#8] := by decide
theorem test_keyevt_slave_macro_release :
    traceOf (exec (.keyevtSlave 0xFFFF#16 false) slave) = some [.tx 0x69#8, .tx 0xFF#8, .tx 0xFF#8, .tx 0x00#8, .tx 0x67#8] := by decide
theorem test_keyevt_slave_gap : traceOf (exec (.keyevtSlave 0xFFEF#16 true) slave) = some [] := by decide
theorem test_keyevt_master : traceOf (exec (.keyevtMaster 0xFFF0#16 true) (master 0 [])) = some [] := by decide
theorem test_reset_discards_partial_frame : idxOf (exec (.reset .master) (master 3 [0x01#8])) = some 0 := by decide
theorem test_reset_keeps_rxq : rxqOf (exec (.reset .slave) (master 3 [0x01#8])) = some [0x01#8] := by decide
theorem test_reset_from_power_on : idxOf (exec (.reset .slave) State.powerOn) = some 0 := by decide

/-! ## Steps -/

theorem test_step_selects_row_by_idx :
    bufOf (step { master 1 [] with inputs := [.byte 0x07#8] }) = some ⟨0x69#8, 0x07#8, 0x00#8, 0x01#8, 0xAA#8⟩ := by decide
theorem test_step_runs_word_first : traceOf (step (State.reset.withFetchWord 40 0x690400016E)) = some [.assertKey 0x0004#16] := by decide
theorem test_step_runs_byte_first : idxOf (step (State.reset.withFetchWord 8 0x69)) = some 1 := by decide
theorem test_step_arrival : rxqOf (step { master 0 [0x01#8] with inputs := [frameArrival 0x0004#16 true] }) =
    some [0x01#8, 0x69#8, 0x04#8, 0x00#8, 0x01#8, 0x6E#8] := by decide
theorem test_link_carries_only_new_bytes :
    (Link.transfer id { slave := { slave with trace := [.tx 0x01#8, .tx 0x02#8] }, master := master 0 [], carried := 1 }).master.rxq
      = [0x02#8] := by decide

/-! ## Witnesses: for each statement with hypotheses, a state and operands that meet them together -/

theorem witness_OperationsBeforeResetAreRefused : State.powerOn.block = none ∧ ∀ r, Instr.tickMaster ≠ .reset r := by
  exact ⟨rfl, fun _ => by simp⟩

/-- Serves every statement whose hypothesis is that the block has been RESET: EveryOperationCompletes, NoRunEverStops,
Checksum8ReturnsSumModulo256, EncodeReturnsPackedFrame, GenericFrameRowReturnsItsDecoding, RxbyteRunsTheSelectedRow, OutputsAreBounded. -/
theorem witness_block_after_reset : State.reset.block = some (Block.afterReset .master) ∧ slave.block = some (Block.afterReset .slave) := by
  decide

theorem witness_Checksum8Laws :
    [0x01#8, 0x02#8].Perm [0x02#8, 0x01#8] ∧ (0x00#8 ≠ 0xFF#8) ∧ (0x05#8 - 0x04#8) + (0x00#8 - 0x01#8) = 0#8 := by
  exact ⟨List.Perm.swap _ _ _, by decide, by decide⟩

theorem witness_DecodeTestsPreambleThenChecksum :
    (encodeFrame 0x0004#16 true).preamble = 0x69#8
      ∧ (0x69#8 + 0x04#8 + 0x00#8 + 0x01#8 : Byte) = 0x6E#8 ∧ (0x69#8 + 0x04#8 + 0x00#8 + 0x01#8 : Byte) ≠ 0x6F#8 ∧ (0x68#8 : Byte) ≠ 0x69#8 := by
  decide

theorem witness_EncodeImageIsTheCanonicalFrames : (0x0004#16, true) ≠ (0x0004#16, false) := by decide

theorem witness_ReencodingRestoresExactlyCanonicalFrames :
    decodeFrame ⟨0x69#8, 0x04#8, 0x00#8, 0xFF#8, 0x6C#8⟩ = .ok 0x0004#16 true
      ∧ isCanonicalFrame ⟨0x69#8, 0x04#8, 0x00#8, 0xFF#8, 0x6C#8⟩ = false
      ∧ decodeFrame ⟨0x69#8, 0x04#8, 0x00#8, 0x01#8, 0x6E#8⟩ = .ok 0x0004#16 true
      ∧ isCanonicalFrame ⟨0x69#8, 0x04#8, 0x00#8, 0x01#8, 0x6E#8⟩ = true := by decide

/-- Each clause of CorruptionIsReportedUnlessDifferencesCancel, and EverySingleBitFlipIsDetected: a valid frame; a corrupted byte 0;
differences that do not cancel; differences that do (95_test_vectors.md 2.3, `69 05 00 00 6E`). -/
theorem witness_corruption :
    isValidFrame ⟨0x69#8, 0x04#8, 0x00#8, 0x01#8, 0x6E#8⟩ = true
      ∧ (0x68#8 - 0x69#8 : Byte) ≠ 0#8
      ∧ ((0x04#8 - 0x04#8) + (0x00#8 - 0x00#8) + (0x01#8 - 0x01#8) - (0x6F#8 - 0x6E#8) : Byte) ≠ 0#8
      ∧ ((0x05#8 - 0x04#8) + (0x00#8 - 0x00#8) + (0x00#8 - 0x01#8) - (0x6E#8 - 0x6E#8) : Byte) = 0#8 := by decide

/-- The boundary values of R143 meet each clause's range. -/
theorem witness_ClassifyReturnsTheRange :
    (∀ c ∈ [0x0001#16, 0x00FE#16], 1 ≤ c.toNat ∧ c.toNat ≤ 0xFE) ∧ (∀ c ∈ [0xFFF0#16, 0xFFFF#16], 0xFFF0 ≤ c.toNat)
      ∧ (∀ c ∈ [0x0000#16, 0x00FF#16, 0x0100#16, 0xFFEF#16],
          c.toNat = 0 ∨ c.toNat = 0xFF ∨ (0x100 ≤ c.toNat ∧ c.toNat ≤ 0xFFEF)) := by simp

/-- Serves every statement about a Master: its block, its role, and the positions IDX = 0 and 1 to 4. -/
theorem witness_master :
    ∀ i : Idx, (master i []).block = some (blockAt .master i slot4) ∧ (blockAt .master i slot4).role = .master
      ∧ (blockAt .master i slot4).idx = i := by decide

/-- Serves every statement about a Slave. -/
theorem witness_slave : slave.block = some (Block.afterReset .slave) ∧ (Block.afterReset .slave).role = .slave := by decide

theorem witness_KeyFrameRowsDeliverOneHostAction :
    ∀ lo ∈ [0x01#8, 0xFE#8], 1 ≤ lo.toNat ∧ lo.toNat ≤ 0xFE ∧ ∀ p ∈ [0x01#8, 0xFF#8], p ≠ 0x00#8 := by decide

theorem witness_InvalidKeycodeFrameIsDroppedInSilence :
    ∀ x ∈ [(0x00#8, 0x00#8), (0x00#8, 0xFF#8), (0x01#8, 0x00#8), (0xFF#8, 0xEF#8)],
      x.1.toNat * 256 + x.2.toNat = 0 ∨ x.1.toNat * 256 + x.2.toNat = 0xFF
        ∨ (0x100 ≤ x.1.toNat * 256 + x.2.toNat ∧ x.1.toNat * 256 + x.2.toNat ≤ 0xFFEF) := by simp

theorem witness_BadChecksumFrameIsReportedOnce : (0x6F#8 : Byte) ≠ 0x69#8 + 0x04#8 + 0x00#8 + 0x01#8 := by decide

theorem witness_BadPreambleFrameIsReportedOnce : (0x68#8 : Byte) ≠ 0x69#8 := by decide

/-- Each clause of FramedoneDispatchesByDecodeAndClass. -/
theorem witness_FramedoneDispatchesByDecodeAndClass :
    (checksum8 [0x69#8, 0x04#8, 0x00#8, 0x01#8] ≠ 0x6F#8) ∧ (0x68#8 : Byte) ≠ 0x69#8
      ∧ (decodeFrame (encodeFrame 0x00FE#16 true) = .ok 0x00FE#16 true ∧ classify 0x00FE#16 = .standardKey)
      ∧ (decodeFrame (encodeFrame 0x0001#16 false) = .ok 0x0001#16 false ∧ classify 0x0001#16 = .standardKey)
      ∧ (decodeFrame (encodeFrame 0xFFF0#16 true) = .ok 0xFFF0#16 true ∧ classify 0xFFF0#16 = .remoteMacro 1)
      ∧ (decodeFrame (encodeFrame 0xFFEF#16 true) = .ok 0xFFEF#16 true ∧ classify 0xFFEF#16 = .invalid) := by decide

theorem witness_HuntingDiscardsOtherBytes : ∀ b ∈ [0x68#8, 0x6A#8, 0x00#8, 0xFF#8], b ≠ 0x69#8 := by decide

/-- Both clauses of RowsAlwaysMeanTheirBytes: a byte row away from its position, a frame row with operands its constraint refuses. -/
theorem witness_RowsAlwaysMeanTheirBytes :
    byteOfRow (.byteData 0x12#8) = some 0x12#8
      ∧ frameOfRow (.frameStdPress 0x00#8 0x01#8) = some ⟨0x69#8, 0x00#8, 0x00#8, 0x01#8, 0x6A#8⟩ := by decide

theorem witness_SlaveSendsDeliverableKeycodes :
    classify 0x00FE#16 = .standardKey ∧ classify 0xFFFF#16 = .remoteMacro 16 ∧ classify 0x00FF#16 = .invalid := by decide

theorem witness_MasterTickDrainsTheQueue : (master 0 []).rxq = [] ∧ (master 0 [0x69#8]).rxq = 0x69#8 :: [] := by decide

/-- RolesKeepToTheirSideOfTheLink and RoleIsChangedOnlyByReset, in each role. -/
theorem witness_roles :
    (∀ r, Instr.tickMaster ≠ .reset r) ∧ (∃ t, exec .tickMaster (master 0 [0x12#8]) = .next t)
      ∧ (∀ r, Instr.keyevtSlave 0x0004#16 true ≠ .reset r) ∧ (∃ t, exec (.keyevtSlave 0x0004#16 true) slave = .next t) :=
  ⟨fun _ => by simp, ⟨_, rfl⟩, fun _ => by simp, ⟨_, rfl⟩⟩

theorem witness_EveryStepKeepsTheInvariant :
    (master 4 []).inv = true ∧ ∃ t, step { master 4 [] with inputs := [.byte 0x6E#8] } = .next t :=
  ⟨by decide, ⟨_, rfl⟩⟩

theorem witness_RunningBlockNeverFailsThePreambleTest : (blockAt .master 4 slot4).Inv ∧ (blockAt .master 4 slot4).idx = 4 := by decide

theorem witness_RecordsAreNeverRead : ∃ t, exec (.rxbyte 0x12#8) (master 0 []) = .next t := ⟨_, rfl⟩

theorem witness_DiagnosticsAreTransparent :
    (master 0 []).trace.filter (fun a => !a.isDiag) = [Action.diag (.syncError 0x00#8)].filter (fun a => !a.isDiag)
      ∧ ∃ t, runSteps 1 { master 0 [0x12#8] with inputs := [.event .tick] } = .next t :=
  ⟨by decide, ⟨_, rfl⟩⟩

/-- Each clause of OutputsAreBounded has a next state. -/
theorem witness_OutputsAreBounded :
    (∃ t, exec (.rxbyte 0x6E#8) (master 4 []) = .next t) ∧ (∃ t, exec .framedone (master 4 []) = .next t)
      ∧ (∃ t, exec .tickMaster (master 4 [0x6E#8]) = .next t) ∧ (∃ t, exec (.keyevtSlave 0x0004#16 true) slave = .next t) :=
  ⟨⟨_, rfl⟩, ⟨_, rfl⟩, ⟨_, rfl⟩, ⟨_, rfl⟩⟩

/-- Two Masters at IDX = 2 that differ in every stale byte. -/
theorem witness_StaleBytesAreUnobservable :
    State.agree { master 2 [] with inputs := [.event .tick, .arrive [0x00#8]] }
        { master 2 [] with
          inputs := [.event .tick, .arrive [0x00#8]]
          block := some (blockAt .master 2 ⟨0x69#8, 0x04#8, 0x55#8, 0x55#8, 0x55#8⟩) }
      ∧ ∀ x ∈ [Input.event .tick, .arrive [0x00#8]], x.isEnvironment = true := by
  refine ⟨⟨⟨rfl, rfl, ?_⟩, rfl, rfl, rfl, rfl⟩, by decide⟩
  decide

theorem witness_ErrorLeavesTheReceiverHunting :
    (∃ t, exec (.rxbyte 0x12#8) (master 0 []) = .next t ∧ t.trace = (master 0 []).trace ++ [.diag (.syncError 0x12#8)])
      ∧ ∃ t d, exec (.rxbyte 0x00#8) (master 4 []) = .next t ∧ t.trace = (master 4 []).trace ++ [.diag d] :=
  ⟨⟨_, rfl, rfl⟩, ⟨_, _, rfl, rfl⟩⟩

/-- Two different schedules of one stream, with key events among them, as in P4. -/
theorem witness_TickScheduleIsUnobservable :
    arrivals [.arrive [0x69#8, 0x04#8], .event .tick, .event (.keyEvt 0x0004#16 true), .arrive [0x00#8], .event .tick]
        = arrivals [.arrive [0x69#8, 0x04#8, 0x00#8], .event .tick]
      ∧ (∀ x ∈ [Input.arrive [0x69#8], .event .tick, .event (.keyEvt 0x0004#16 true)], x.inSession = true)
      ∧ tickAfterLastArrival [.arrive [0x69#8, 0x04#8], .event .tick, .event (.keyEvt 0x0004#16 true), .arrive [0x00#8], .event .tick]
      ∧ tickAfterLastArrival [.arrive [0x69#8, 0x04#8, 0x00#8], .event .tick] :=
  ⟨by decide, by decide,
    ⟨[.arrive [0x69#8, 0x04#8], .event .tick, .event (.keyEvt 0x0004#16 true), .arrive [0x00#8]], [], rfl, rfl⟩,
    ⟨[.arrive [0x69#8, 0x04#8, 0x00#8]], [], rfl, rfl⟩⟩

theorem witness_AlignedFrameIsDispatched : isValidFrame (encodeFrame 0x0069#16 true) = true := by decide

theorem witness_FramesAroundCleanGarbageAreRecovered : ∀ b ∈ [0x00#8, 0xFF#8, 0x12#8], b ≠ 0x69#8 := by decide

theorem witness_PartialFramePersistsWithoutTimeout :
    (master 4 []).rxq = [] ∧ (∀ x ∈ [Input.event .tick, .event (.keyEvt 0x0004#16 true), .arrive []], x.inSession = true)
      ∧ arrivals [.event .tick, .event (.keyEvt 0x0004#16 true), .arrive []] = [] := by decide

/-- A Slave and a Master after RESET, with a list of one event of each class (P2, P3). -/
theorem witness_LinkDeliversExactlyTheDeliverableEvents :
    (Block.afterReset .slave).role = .slave ∧ (Block.afterReset .master).role = .master ∧ (Block.afterReset .master).idx = 0
      ∧ State.reset.rxq = []
      ∧ [(0x0004#16, true), (0xFFF7#16, false), (0x0100#16, true)].filterMap (fun e => deliveredAction e.1 e.2)
          = [.assertKey 0x0004#16, .raiseKeyEvent 0xFFF7#16 false] := by decide

/-- Every encoded row, at a position that selects it. -/
theorem witness_DecodeOfEncodeIsTheRow :
    ∀ x ∈ [(Instr.frameStdPress 0xFE#8 0xFF#8, (0 : Idx)), (.frameStdRelease 0x01#8, 4), (.frameMacro 0xF#16 0x00#8, 4),
        (.frameInvalidKc 0xFF#8 0x00#8 0x01#8, 4), (.frameBadsum 0x04#8 0x00#8 0x01#8 0x6F#8, 4),
        (.frameBadpre 0x68#8 0x04#8 0x00#8 0x01#8 0x6E#8, 4), (.byteSof, 0), (.byteHuntDiscard 0xFF#8, 0), (.byteData 0x69#8, 1),
        (.byteData 0x00#8, 3), (.byteLast 0x69#8, 4)],
      x.1.wf = true ∧ rowSelectedAt x.1 x.2 = true ∧ (encode x.1).isSome = true := by decide

theorem witness_EncodeOfDecodeIsTheBytes :
    decodeBytes 0 [0x69#8] = .ok .byteSof
      ∧ decodeBytes 4 [0x69#8, 0x04#8, 0x00#8, 0x01#8, 0x6E#8] = .ok (.frameStdPress 0x04#8 0x01#8) := by
  exact ⟨rfl, rfl⟩

/-- Each clause of FrameMapSelectsByBytePatterns, at the ends of the ranges of bytes 1 and 2. -/
theorem witness_FrameMapSelectsByBytePatterns :
    (0x68#8 : Byte) ≠ 0x69#8
      ∧ (∀ lo ∈ [0x01#8, 0xFE#8], (sealedFrame lo 0x00#8 0x01#8).cksum = 0x69#8 + lo + 0x00#8 + 0x01#8 ∧ lo ≠ 0x00#8 ∧ lo ≠ 0xFF#8)
      ∧ (∀ lo : Byte, lo ∈ [0xF0#8, 0xFF#8] → lo.extractLsb' 4 4 = 0xF#4)
      ∧ ((0xEF#8 : Byte).extractLsb' 4 4 ≠ 0xF#4) ∧ (∀ hi ∈ [0x01#8, 0xFE#8], hi ≠ 0x00#8 ∧ hi ≠ 0xFF#8) := by decide

/-- Each clause of StepRunsTheDecodedInstruction has a schedule that meets it. -/
theorem witness_StepRunsTheDecodedInstruction :
    decodeBytes (blockAt .master 4 slot4).idx [0x6E#8] = .ok (.byteLast 0x6E#8)
      ∧ decodeBytes (blockAt .master 4 slot4).idx (frameBytes (encodeFrame 0x0004#16 false)) = .ok (.frameStdRelease 0x04#8)
      ∧ { master 4 [] with inputs := [.byte 0x6E#8] }.inputs = .byte 0x6E#8 :: []
      ∧ { master 4 [] with inputs := [.frame slot4] }.inputs = .frame slot4 :: []
      ∧ { slave with inputs := [.apply (.classify 0xFFFF#16)] }.inputs = .apply (.classify 0xFFFF#16) :: []
      ∧ { State.powerOn with inputs := [.event (.reset .slave)] }.inputs = .event (.reset .slave) :: []
      ∧ { slave with inputs := [.event .tick] }.inputs = .event .tick :: []
      ∧ { master 0 [] with inputs := [.event .tick] }.inputs = .event .tick :: []
      ∧ { slave with inputs := [.event (.keyEvt 0xFFFF#16 true)] }.inputs = .event (.keyEvt 0xFFFF#16 true) :: []
      ∧ { master 0 [] with inputs := [.event (.keyEvt 0x0000#16 false)] }.inputs = .event (.keyEvt 0x0000#16 false) :: [] := by
  exact ⟨rfl, rfl, rfl, rfl, rfl, rfl, rfl, rfl, rfl, rfl⟩

theorem witness_StepAfterWithFetchWordRunsTheWord :
    decodeTableWord 8 0x69 = some .byteSof ∧ decodeTableWord 40 0x690400016E = some (.frameStdPress 0x04#8 0x01#8) := by decide

theorem witness_ArrivalsAppendAndIdleKeepsState :
    { master 0 [] with inputs := [.arrive [0x69#8]] }.inputs = .arrive [0x69#8] :: [] ∧ State.reset.inputs = [] := by decide

end Sys2Proof.Tests
end

section
/-! PROOFS of the family 00_scope.md: the records and the schedule are write-only for the operations (R12, R31). -/

namespace Sys2Proof.Machine

/-- R32, R212: every instruction but RESET goes through the gate `onBlock`, so none has a meaning before the first RESET. -/
theorem exec_refused_of_block_none {i : Instr} (hi : ∀ r, i ≠ .reset r) {s : State} (h : s.block = none) :
    exec i s = .refused .beforeReset := by
  cases i
  case reset r => exact absurd rfl (hi r)
  all_goals exact onBlock_none h _

/-- An instruction other than RESET that answers a next state found a block. -/
theorem exists_block_of_exec_next {i : Instr} (hi : ∀ r, i ≠ .reset r) {s t : State} (e : exec i s = .next t) :
    ∃ k, s.block = some k := by
  cases h : s.block with
  | none => rw [exec_refused_of_block_none hi h] at e; cases e
  | some k => exact ⟨k, rfl⟩

/-- RESET's effect on the whole state (R211): a new block and the next draw, all else as it was. -/
theorem exec_reset (r : Role) (s : State) :
    exec (.reset r) s = .next { s with block := some ⟨r, 0, freeBuf s.draws⟩, draws := s.draws + 1 } := rfl

/-- Settles O39. RESET appends nothing and reads the draw counter only; any other instruction has one `Effect`, fixed by the block
and RXQ (`exec_effect`), and the state with other records and schedule has the same block and RXQ. -/
theorem recordsAreNeverRead : Obligations.RecordsAreNeverRead := by
  unfold Obligations.RecordsAreNeverRead
  intro i s t h
  by_cases hi : ∃ r, i = .reset r
  · obtain ⟨r, rfl⟩ := hi
    rw [exec_reset] at h
    cases h
    refine ⟨[], [], by simp, by simp, rfl, fun tr rs xs => ?_⟩
    simp [exec_reset]
  · replace hi : ∀ r, i ≠ .reset r := not_exists.1 hi
    obtain ⟨k, hk⟩ := exists_block_of_exec_next hi h
    obtain ⟨e, he⟩ := exec_effect i hi k s.rxq
    rw [he s hk rfl] at h
    cases h
    exact ⟨e.actions, e.answers, rfl, rfl, rfl, fun tr rs xs => he { s with trace := tr, returned := rs, inputs := xs } hk rfl⟩

end Sys2Proof.Machine
end

section
/-! PROOFS of the family 10_state.md: the state before and right after RESET (R32), the invariant R23 b, and the stale bytes of BUF
(R23 c). -/

namespace Sys2Proof.Machine

/-! ## Before and right after RESET -/

/-- Settles O3. -/
theorem operationsBeforeResetAreRefused : Obligations.OperationsBeforeResetAreRefused :=
  fun _ _ h hi => exec_refused_of_block_none hi h

/-- R23 b asks nothing of a hunting block. -/
theorem Block.inv_of_idx_eq_zero {k : Block} (h : k.idx = 0) : k.Inv :=
  fun h' => absurd h h'

theorem State.inv_iff {s : State} : s.inv = true ↔ ∃ k, s.block = some k ∧ k.Inv := by
  cases h : s.block with
  | none => simp [State.inv, h]
  | some k => simp only [State.inv, h, decide_eq_true_eq, Option.some.injEq, exists_eq_left']

/-- Settles O2: the reset state is hunting, so R23 b holds of it; the rest are its fields. -/
theorem resetStateMeetsInvariant : Obligations.ResetStateMeetsInvariant :=
  ⟨State.inv_iff.2 ⟨_, rfl, Block.inv_of_idx_eq_zero rfl⟩, rfl, rfl, rfl, rfl, rfl, rfl⟩

/-! ## The BYTE rows are RXBYTE

The effect column's own wording of each row (R121 to R124) is what RXBYTE does of its byte, at every IDX. -/

theorem execByteSof_eq (s : State) : execByteSof s = execRxbyte preambleByte s := by
  refine congrArg (onReceiver s) (funext fun k => ?_)
  split
  next h => rw [rxByte_start h, Block.store, h]; rfl
  next => rfl

theorem execByteHuntDiscard_eq (b : Byte) (s : State) : execByteHuntDiscard b s = execRxbyte b s := by
  refine congrArg (onReceiver s) (funext fun k => ?_)
  split
  next h =>
    have hb : b ≠ preambleByte := by simpa [Instr.wf, wfNotPreamble] using h.2
    rw [rxByte_discard h.1 hb, raise]
  next => rfl

theorem execByteData_eq (b : Byte) (s : State) : execByteData b s = execRxbyte b s := by
  refine congrArg (onReceiver s) (funext fun k => ?_)
  split
  next h =>
    have hi : k.idx ≠ 0 ∧ k.idx ≠ 4 := by
      rcases h with h | h | h <;> rw [h] <;> decide
    rw [rxByte_data b hi.1 hi.2]; rfl
  next => rfl

theorem execByteLast_eq (b : Byte) (s : State) : execByteLast b s = execRxbyte b s := by
  refine congrArg (onReceiver s) (funext fun k => ?_)
  split
  next h => rw [rxByte_last b h, Block.store, h, slotSet_four]; rfl
  next => rfl

/-! ## R23 b is kept by every step -/

/-- A write above position 0 leaves BUF[0] (R21). -/
theorem slotSet_preamble {i : Idx} (h : i ≠ 0) (f : Frame) (v : Byte) : (slotSet f i v).preamble = f.preamble :=
  (slotGet_slotSet f i 0 v).trans (if_neg h.symm)

/-- A hunting receiver leaves IDX 0 only with the preamble byte in BUF[0]; after that only positions 1 to 4 are written. -/
theorem rxByte_inv (b : Byte) {k : Block} (h : k.Inv) : (rxByte b k).1.Inv := by
  obtain ⟨-, -, e⟩ | ⟨h0, rfl, e⟩ | ⟨h0, -, e⟩ | ⟨-, e⟩ := rxByte_cases b k <;> rw [e]
  · exact h
  · intro _
    rw [Block.goto_buf, Block.store_buf, h0, slotSet_zero]
  · intro _
    rw [Block.goto_buf, Block.store_buf, slotSet_preamble h0]
    exact h h0
  · exact Block.inv_of_idx_eq_zero rfl

theorem drain_inv (xs : List Byte) {k : Block} (h : k.Inv) : (drain xs k).1.Inv := by
  induction xs generalizing k with
  | nil => exact h
  | cons b xs ih => exact ih (rxByte_inv b h)

/-- R67: a FRAME row leaves the receiver hunting. -/
theorem completes_inv (as : List Action) (k : Block) : (completes as k).1.Inv :=
  Block.inv_of_idx_eq_zero rfl

theorem onReceiver_inv {f : Block → Block × List Action} (hf : ∀ k : Block, k.Inv → (f k).1.Inv) {s t : State}
    (hs : s.inv = true) (e : onReceiver s f = .next t) : t.inv = true := by
  obtain ⟨k, hk, hinv⟩ := State.inv_iff.1 hs
  cases hr : k.role with
  | master =>
    rw [onReceiver_master hk hr] at e
    cases e
    exact State.inv_iff.2 ⟨_, rfl, hf k hinv⟩
  | slave =>
    rw [onReceiver_slave hk hr] at e
    cases e
    exact hs

theorem execRxbyte_inv {b : Byte} {s t : State} (hs : s.inv = true) (e : execRxbyte b s = .next t) : t.inv = true :=
  onReceiver_inv (fun _ => rxByte_inv b) hs e

theorem frameRow_inv {as : List Action} {s t : State} (hs : s.inv = true) (e : onReceiver s (completes as) = .next t) :
    t.inv = true :=
  onReceiver_inv (fun k _ => completes_inv as k) hs e

theorem returning_inv {v : Value} {s t : State} (hs : s.inv = true) (e : returning s v = .next t) : t.inv = true := by
  obtain ⟨k, hk, -⟩ := State.inv_iff.1 hs
  rw [returning_some hk] at e
  cases e
  exact hs

theorem tick_inv {s t : State} (hs : s.inv = true) (e : tick s = .next t) : t.inv = true := by
  obtain ⟨k, hk, hinv⟩ := State.inv_iff.1 hs
  cases hr : k.role with
  | master =>
    rw [tick_master hk hr] at e
    cases e
    exact State.inv_iff.2 ⟨_, rfl, drain_inv s.rxq hinv⟩
  | slave =>
    rw [tick_slave hk hr] at e
    cases e
    exact hs

theorem keyEvt_inv {c : Keycode} {p : Bool} {s t : State} (hs : s.inv = true) (e : keyEvt c p s = .next t) :
    t.inv = true := by
  obtain ⟨k, hk, -⟩ := State.inv_iff.1 hs
  cases hr : k.role with
  | master =>
    rw [keyEvt_master hk hr] at e
    cases e
    exact hs
  | slave =>
    rw [keyEvt_slave hk hr] at e
    cases e
    exact hs

/-- Every instruction keeps R23 b: the BYTE rows are RXBYTE, the FRAME rows and RESET end hunting, Tick is a fold of RXBYTE, and the
others leave the block. -/
theorem exec_inv {i : Instr} {s t : State} (hs : s.inv = true) (e : exec i s = .next t) : t.inv = true := by
  cases i with
  | frame | checksum8 | encode | decode | classify => exact returning_inv hs e
  | frameStdPress | frameStdRelease | frameMacro | frameInvalidKc | frameBadsum | frameBadpre => exact frameRow_inv hs e
  | byteSof => exact execRxbyte_inv hs ((execByteSof_eq s).symm.trans e)
  | byteHuntDiscard b => exact execRxbyte_inv hs ((execByteHuntDiscard_eq b s).symm.trans e)
  | byteData b => exact execRxbyte_inv hs ((execByteData_eq b s).symm.trans e)
  | byteLast b => exact execRxbyte_inv hs ((execByteLast_eq b s).symm.trans e)
  | rxbyte => exact execRxbyte_inv hs e
  | framedone => exact onReceiver_inv (fun _ h => h) hs e
  | tickMaster | tickSlave => exact tick_inv hs e
  | keyevtSlave | keyevtMaster => exact keyEvt_inv hs e
  | reset r =>
    rw [exec_reset] at e
    cases e
    exact State.inv_iff.2 ⟨_, rfl, Block.inv_of_idx_eq_zero rfl⟩

/-- Settles O37: an idle step and an arrival leave the block, and every instruction keeps R23 b (`exec_inv`). -/
theorem everyStepKeepsTheInvariant : Obligations.EveryStepKeepsTheInvariant := by
  unfold Obligations.EveryStepKeepsTheInvariant
  intro s t hs e
  obtain ⟨-, rfl⟩ | ⟨bs, rest, -, rfl⟩ | ⟨i, x, rest, -, -, e⟩ := step_cases e
  · exact hs
  · exact hs
  · exact exec_inv (s := s.schedule rest) hs e

/-! ## Stale bytes are unobservable -/

theorem Block.agree.role_eq {k l : Block} (h : k.agree l) : k.role = l.role := h.1

theorem Block.agree.idx_eq {k l : Block} (h : k.agree l) : k.idx = l.idx := h.2.1

/-- Storing the same byte makes the position at IDX agree too. -/
theorem Block.agree.slotGet_store {k l : Block} (h : k.agree l) (b : Byte) {j : Idx} (hj : j ≤ k.idx) :
    slotGet (k.store b).buf j = slotGet (l.store b).buf j := by
  obtain ⟨-, hidx, hbuf⟩ := h
  rw [Block.store_buf, Block.store_buf, slotGet_slotSet, slotGet_slotSet, ← hidx]
  split
  next => rfl
  next hne => exact hbuf j (lt_of_le_of_ne hj hne)

/-- Storing a byte and moving on brings no stale byte below IDX. -/
theorem Block.agree.store_goto {k l : Block} (h : k.agree l) (b : Byte) {i : Idx} (hi : ∀ j < i, j ≤ k.idx) :
    ((k.store b).goto i).agree ((l.store b).goto i) :=
  ⟨h.role_eq, rfl, fun j hj => h.slotGet_store b (hi j hj)⟩

/-- At IDX = 4 the byte stored completes the frame: no stale byte is left in it. -/
theorem Block.agree.store_buf_eq {k l : Block} (h : k.agree l) (b : Byte) (h4 : k.idx = 4) :
    (k.store b).buf = (l.store b).buf :=
  frame_ext_slot fun j => h.slotGet_store b (h4 ▸ Fin.le_last j)

/-- RXBYTE reads BUF in FRAMEDONE only, when all five bytes have been written. -/
theorem rxByte_agree (b : Byte) {k l : Block} (h : k.agree l) :
    (rxByte b k).1.agree (rxByte b l).1 ∧ (rxByte b k).2 = (rxByte b l).2 := by
  have hidx := h.idx_eq
  obtain ⟨h0, hb, e⟩ | ⟨h0, rfl, e⟩ | ⟨h0, h4, e⟩ | ⟨h4, e⟩ := rxByte_cases b k <;> rw [e]
  · rw [rxByte_discard (hidx ▸ h0) hb]
    exact ⟨h, rfl⟩
  · rw [rxByte_start (hidx ▸ h0)]
    exact ⟨h.store_goto _ (by rw [h0]; decide), rfl⟩
  · rw [rxByte_data b (hidx ▸ h0) (hidx ▸ h4), ← hidx]
    have below : ∀ i j : Idx, j < i + 1 → j ≤ i := by decide
    exact ⟨h.store_goto b (below k.idx), rfl⟩
  · rw [rxByte_last b (hidx ▸ h4), h.store_buf_eq b h4]
    exact ⟨h.store_goto b (by simp), rfl⟩

theorem drain_agree (xs : List Byte) {k l : Block} (h : k.agree l) :
    (drain xs k).1.agree (drain xs l).1 ∧ (drain xs k).2 = (drain xs l).2 := by
  induction xs generalizing k l with
  | nil => exact ⟨h, rfl⟩
  | cons b xs ih =>
    obtain ⟨hb, eb⟩ := rxByte_agree b h
    obtain ⟨hx, ex⟩ := ih hb
    rw [drain_cons, drain_cons, eb, ex]
    exact ⟨hx, rfl⟩

/-! One rule per update of the state: what it keeps of the agreement. -/

section
variable {s t : State} (h : s.agree t)
include h

/-- A state that agrees with one after RESET has a block that agrees with its block. -/
theorem State.agree.exists_block {k : Block} (hs : s.block = some k) : ∃ l, t.block = some l ∧ k.agree l := by
  cases ht : t.block <;> simp_all [State.agree]

theorem State.agree.rxq_eq : s.rxq = t.rxq := h.2.1

theorem State.agree.inputs_eq : s.inputs = t.inputs := h.2.2.1

theorem State.agree.withBlock {k l : Block} (hkl : k.agree l) : (s.withBlock k).agree (t.withBlock l) :=
  ⟨hkl, h.2⟩

theorem State.agree.emit (as : List Action) : (s.emit as).agree (t.emit as) := by
  obtain ⟨hblock, hrxq, hinputs, htrace, hreturned⟩ := h
  exact ⟨hblock, hrxq, hinputs, congrArg (· ++ as) htrace, hreturned⟩

theorem State.agree.receive (bs : List Byte) : (s.receive bs).agree (t.receive bs) := by
  obtain ⟨hblock, hrxq, hrest⟩ := h
  exact ⟨hblock, congrArg (· ++ bs) hrxq, hrest⟩

theorem State.agree.emptied : s.emptied.agree t.emptied := by
  obtain ⟨hblock, -, hrest⟩ := h
  exact ⟨hblock, rfl, hrest⟩

theorem State.agree.schedule (rest : List Input) : (s.schedule rest).agree (t.schedule rest) := by
  obtain ⟨hblock, hrxq, -, hrest⟩ := h
  exact ⟨hblock, hrxq, rfl, hrest⟩

end

/-! The environment's operations and a step. -/

/-- Two answers that are next states which agree, the block RESET and the schedule xs to come. -/
def AgreeingNext (xs : List Input) (r q : Result) : Prop :=
  ∃ s t k, r = .next s ∧ q = .next t ∧ s.agree t ∧ s.block = some k ∧ s.inputs = xs

/-- RESET leaves IDX 0, where every byte of BUF is stale (R32). -/
theorem exec_reset_agree {s t : State} (h : s.agree t) (r : Role) :
    AgreeingNext s.inputs (exec (.reset r) s) (exec (.reset r) t) :=
  ⟨_, _, _, exec_reset r s, exec_reset r t, ⟨⟨rfl, rfl, by simp⟩, h.2⟩, rfl, rfl⟩

section
variable {s t : State} {k : Block} (hs : s.block = some k) (h : s.agree t)
include hs h

theorem tick_agree : AgreeingNext s.inputs (tick s) (tick t) := by
  obtain ⟨l, ht, hkl⟩ := h.exists_block hs
  cases hr : k.role with
  | master =>
    obtain ⟨hblock, hacts⟩ := drain_agree s.rxq hkl
    refine ⟨_, _, _, tick_master hs hr, tick_master ht (hkl.role_eq ▸ hr), ?_, rfl, rfl⟩
    rw [← h.rxq_eq, ← hacts]
    exact (h.emptied.withBlock hblock).emit _
  | slave => exact ⟨s, t, k, tick_slave hs hr, tick_slave ht (hkl.role_eq ▸ hr), h, hs, rfl⟩

theorem keyEvt_agree (c : Keycode) (p : Bool) : AgreeingNext s.inputs (keyEvt c p s) (keyEvt c p t) := by
  obtain ⟨l, ht, hkl⟩ := h.exists_block hs
  cases hr : k.role with
  | master => exact ⟨s, t, k, keyEvt_master hs hr c p, keyEvt_master ht (hkl.role_eq ▸ hr) c p, h, hs, rfl⟩
  | slave => exact ⟨_, _, k, keyEvt_slave hs hr c p, keyEvt_slave ht (hkl.role_eq ▸ hr) c p, h.emit _, hs, rfl⟩

end

/-- A Tick after RESET: the TICK rows have one meaning, which reads ROLE itself (R24, R150). -/
theorem step_tick {s : State} {k : Block} {rest : List Input} (hs : s.block = some k) (hx : s.inputs = .event .tick :: rest) :
    step s = tick (s.schedule rest) := by
  rw [step_instr hx (i := rowOfTick k.role) (by rw [hs]; rfl)]
  cases k.role <;> rfl

/-- A KeyEvt after RESET: the KEYEVT rows have one meaning, which reads ROLE itself (R24, R150). -/
theorem step_keyEvt {s : State} {k : Block} {c : Keycode} {p : Bool} {rest : List Input} (hs : s.block = some k)
    (hx : s.inputs = .event (.keyEvt c p) :: rest) : step s = keyEvt c p (s.schedule rest) := by
  rw [step_instr hx (i := rowOfKeyEvt k.role c p) (by rw [hs]; rfl)]
  cases k.role <;> rfl

theorem step_reset {s : State} {r : Role} {rest : List Input} (hx : s.inputs = .event (.reset r) :: rest) :
    step s = exec (.reset r) (s.schedule rest) :=
  step_instr hx rfl

/-- One step on the environment's input keeps two states in agreement. -/
theorem step_agree {s t : State} {k : Block} (hs : s.block = some k) (h : s.agree t)
    (hx : ∀ x ∈ s.inputs, x.isEnvironment = true) : AgreeingNext s.inputs.tail (step s) (step t) := by
  obtain ⟨l, ht, -⟩ := h.exists_block hs
  rcases hin : s.inputs with _ | ⟨x, rest⟩
  · exact ⟨s, t, k, step_idle hin, step_idle (h.inputs_eq ▸ hin), h, hs, hin⟩
  · have hin' : t.inputs = x :: rest := h.inputs_eq ▸ hin
    have hrest := h.schedule rest
    cases x with
    | arrive bs => exact ⟨_, _, k, step_arrive hin, step_arrive hin', hrest.receive bs, hs, rfl⟩
    | event e =>
      cases e with
      | reset r => rw [step_reset hin, step_reset hin']; exact exec_reset_agree hrest r
      | tick => rw [step_tick hs hin, step_tick ht hin']; exact tick_agree hs hrest
      | keyEvt c p => rw [step_keyEvt hs hin, step_keyEvt ht hin']; exact keyEvt_agree (s := s.schedule rest) hs hrest c p
    | byte | frame | apply => simp [hin, Input.isEnvironment] at hx

/-- Settles O42, by induction on the number of steps: each keeps the two states in agreement (`step_agree`). -/
theorem staleBytesAreUnobservable : Obligations.StaleBytesAreUnobservable := by
  unfold Obligations.StaleBytesAreUnobservable
  intro n
  induction n with
  | zero => exact fun s t k _ h _ => ⟨s, t, runSteps_zero s, runSteps_zero t, h⟩
  | succ n ih =>
    intro s t k hs h hx
    obtain ⟨s₁, t₁, k₁, es, et, h₁, hs₁, hin⟩ := step_agree hs h hx
    rw [runSteps_succ es, runSteps_succ et]
    exact ih s₁ t₁ k₁ hs₁ h₁ fun x hmem => hx x (List.mem_of_mem_tail (hin ▸ hmem))

end Sys2Proof.Machine
end

section
/-! PROOFS of the family 20_memory.md: the next line of the schedule and the instruction it decodes to (R53 a, R68, R67, R150). -/

namespace Sys2Proof.Machine

/-- One byte decodes to the BYTE row that IDX selects, and to no other (R68). -/
theorem decodeBytes_byte_eq_ok {j : Idx} {b : Byte} {i : Instr} : decodeBytes j [b] = .ok i ↔ rowOfByte j b = i := by
  rw [decodeBytes, Except.ok.injEq]

/-- A frame's five bytes decode to its row of R67 whatever IDX is. -/
theorem decodeBytes_frame_eq_ok {j : Idx} {f : Frame} {i : Instr} :
    decodeBytes j (frameBytes f) = .ok i ↔ rowOfFrame f = i := by
  rw [frameBytes, decodeBytes, Except.ok.injEq]

theorem step_byte {s : State} {k : Block} {b : Byte} {rest : List Input} (hs : s.block = some k)
    (hx : s.inputs = .byte b :: rest) : step s = exec (rowOfByte k.idx b) (s.schedule rest) :=
  step_instr hx (by rw [hs]; rfl)

theorem step_frame {s : State} {k : Block} {f : Frame} {rest : List Input} (hs : s.block = some k)
    (hx : s.inputs = .frame f :: rest) : step s = exec (rowOfFrame f) (s.schedule rest) :=
  step_instr hx (by rw [hs]; rfl)

theorem step_apply {s : State} {i : Instr} {rest : List Input} (hx : s.inputs = .apply i :: rest) :
    step s = exec i (s.schedule rest) :=
  step_instr hx rfl

/-- Settles O54, one clause for each kind of input. Both TICK rows have the one meaning `tick`, and both KEYEVT rows `keyEvt`, so
`step_tick` and `step_keyEvt` serve either role. -/
theorem stepRunsTheDecodedInstruction : Obligations.StepRunsTheDecodedInstruction := by
  unfold Obligations.StepRunsTheDecodedInstruction
  intro s rest
  refine ⟨?byte, ?frame, ?apply, ?reset, ?tick, ?keyEvt⟩
  case byte =>
    intro k b i hs hx hd
    rw [← decodeBytes_byte_eq_ok.1 hd]
    exact step_byte hs hx
  case frame =>
    intro k f i hs hx hd
    rw [← decodeBytes_frame_eq_ok.1 hd]
    exact step_frame hs hx
  case apply => exact fun i hx => step_apply hx
  case reset => exact fun r hx => step_reset hx
  case tick => exact fun k hs hx => ⟨fun _ => step_tick hs hx, fun _ => step_tick hs hx⟩
  case keyEvt => exact fun k c p hs hx => ⟨fun _ => step_keyEvt hs hx, fun _ => step_keyEvt hs hx⟩

end Sys2Proof.Machine
end

section
/-! PROOFS of the family 30_encoding.md: the rows of R67 and R68 and the bytes they stand for, the table's words, and the FRAME rows at
a Master. -/

namespace Sys2Proof.Machine

/-! ## The constraints of the rows, on their bytes -/

@[simp] theorem wfNotPreamble_iff (b : Byte) : wfNotPreamble b = true ↔ b ≠ preambleByte := by
  rw [wfNotPreamble, Bool.not_eq_true', isPreamble_false_iff]

theorem wfBadsum_iff {lo hi p c : Byte} :
    wfBadsum lo hi p c = true ↔ frameSum ⟨preambleByte, lo, hi, p, c⟩ ≠ c := by
  rw [wfBadsum, bne_iff_ne]
  exact ne_comm

/-- R67 rows 3 and 4 by the mask: the low byte is neither sentinel's. -/
theorem wfStdLo_iff_ne (lo : Byte) : wfStdLo lo = true ↔ lo ≠ 0x00#8 ∧ lo ≠ 0xFF#8 := by
  rw [wfStdLo_iff]
  bv_omega

/-- R67 row 6 by the keycode: the sentinels and the gap between the standard keys and the band (R140). -/
theorem wfInvalidKc_iff (lo hi : Byte) :
    wfInvalidKc lo hi = true ↔
      hi.toNat * 256 + lo.toNat = 0x0000 ∨ hi.toNat * 256 + lo.toNat = 0x00FF
        ∨ (0x0100 ≤ hi.toNat * 256 + lo.toNat ∧ hi.toNat * 256 + lo.toNat ≤ 0xFFEF) := by
  rw [wfInvalidKc, beq_iff_eq, classify_eq, keycodeOf_toNat]
  split_ifs <;> simp <;> omega

theorem bandStart_le_of_remoteMacro {c : Keycode} {m : Nat} (h : classify c = .remoteMacro m) : 0xFFF0 ≤ c.toNat := by
  rw [classify_eq] at h
  split_ifs at h with _ hc
  exact hc

/-! ## The six kinds of frame (R67) -/

/-- A frame with the preamble and the right checksum is sealed (R66). -/
theorem eq_sealedFrame {f : Frame} (h : f.preamble = preambleByte) (h' : frameSum f = f.cksum) :
    f = sealedFrame f.kcLo f.kcHi f.pressed :=
  (isValidFrame_iff_sealed f).1 (by rw [isValidFrame, (isPreamble_iff _).2 h, (cksumMatches_iff _).2 h', Bool.and_self])

/-- A frame fails the preamble test, or passes it and fails the checksum test, or is sealed. -/
theorem frame_cases (f : Frame) :
    f.preamble ≠ preambleByte ∨ (f.preamble = preambleByte ∧ frameSum f ≠ f.cksum) ∨ ∃ lo hi p, f = sealedFrame lo hi p := by
  by_cases h : f.preamble = preambleByte
  · by_cases h' : frameSum f = f.cksum
    · exact .inr (.inr ⟨_, _, _, eq_sealedFrame h h'⟩)
    · exact .inr (.inl ⟨h, h'⟩)
  · exact .inl h

/-- The decoder's row has the frame's bytes and meets its constraint; it is never the generic FRAME. -/
theorem rowOfFrame_spec (f : Frame) :
    frameOfRow (rowOfFrame f) = some f ∧ (rowOfFrame f).wf = true ∧ ∀ lo hi p c, rowOfFrame f ≠ .frame lo hi p c := by
  obtain h | ⟨h, h'⟩ | ⟨lo, hi, p, rfl⟩ := frame_cases f
  · rw [rowOfFrame_badPreamble h]
    exact ⟨rfl, (wfNotPreamble_iff _).2 h, nofun⟩
  · rw [rowOfFrame_badSum h h']
    obtain ⟨_, lo, hi, p, c⟩ := f
    cases h
    exact ⟨rfl, wfBadsum_iff.2 h', nofun⟩
  · rw [rowOfFrame_sealed]
    cases h : classify (keycodeOf lo hi) with
    | standardKey =>
      obtain rfl : hi = 0x00#8 := keycodeHi_of lo hi ▸ keycodeHi_of_standardKey h
      have hlo : wfStdLo lo = true := beq_iff_eq.2 h
      by_cases hp : wfPressed p = true
      · simp only [if_pos hp]
        exact ⟨rfl, Bool.and_eq_true_iff.2 ⟨hlo, hp⟩, nofun⟩
      · obtain rfl : p = 0x00#8 := by simpa [wfPressed] using hp
        exact ⟨rfl, hlo, nofun⟩
    | remoteMacro m =>
      have hn := macroOffset_toNat (bandStart_le_of_remoteMacro h)
      refine ⟨?_, (wfMacroOffset_iff _).2 ?_, nofun⟩
      · simp [frameOfRow]
      · have := (keycodeOf lo hi).isLt
        omega
    | invalid => exact ⟨rfl, beq_iff_eq.2 h, nofun⟩

/-- A well-formed row's frame decodes to the row. -/
theorem rowOfFrame_of_frameOfRow {i : Instr} {f : Frame} (hf : frameOfRow i = some f) (hwf : i.wf = true)
    (hgen : ∀ lo hi p c, i ≠ .frame lo hi p c) : rowOfFrame f = i := by
  cases i with
  | frame lo hi p c => exact absurd rfl (hgen lo hi p c)
  | frameStdPress lo p =>
    cases hf
    obtain ⟨hlo, hp⟩ := Bool.and_eq_true_iff.1 hwf
    rw [rowOfFrame_sealed, beq_iff_eq.1 hlo]
    exact if_pos hp
  | frameStdRelease lo =>
    cases hf
    rw [rowOfFrame_sealed, beq_iff_eq.1 hwf]
    rfl
  | frameMacro n p =>
    cases hf
    rw [rowOfFrame_sealed, keycodeOf_lo_hi, classify_macroCode ((wfMacroOffset_iff n).1 hwf), macroOffset_code]
  | frameInvalidKc lo hi p =>
    cases hf
    rw [rowOfFrame_sealed, beq_iff_eq.1 hwf]
  | frameBadsum lo hi p c =>
    cases hf
    exact rowOfFrame_badSum rfl (wfBadsum_iff.1 hwf)
  | frameBadpre first lo hi p c =>
    cases hf
    exact rowOfFrame_badPreamble ((wfNotPreamble_iff first).1 hwf)
  | _ => cases hf

/-- R67's map: a frame's row is the one well-formed row with its bytes, the generic FRAME aside. -/
theorem rowOfFrame_eq_iff {f : Frame} {i : Instr} :
    rowOfFrame f = i ↔ frameOfRow i = some f ∧ i.wf = true ∧ ∀ lo hi p c, i ≠ .frame lo hi p c :=
  ⟨fun h => h ▸ rowOfFrame_spec f, fun ⟨hf, hwf, hgen⟩ => rowOfFrame_of_frameOfRow hf hwf hgen⟩

/-- R68's map: a byte's row at a position is the one well-formed row with that byte which the position selects. -/
theorem rowOfByte_eq_iff {j : Idx} {b : Byte} {i : Instr} :
    rowOfByte j b = i ↔ byteOfRow i = some b ∧ i.wf = true ∧ rowSelectedAt i j = true := by
  constructor
  · rintro rfl
    unfold rowOfByte
    split_ifs with h0 hb h4
    · exact ⟨congrArg some ((isPreamble_iff b).1 hb).symm, rfl, beq_iff_eq.2 h0⟩
    · exact ⟨rfl, (wfNotPreamble_iff b).2 (mt (isPreamble_iff b).2 hb), beq_iff_eq.2 h0⟩
    · exact ⟨rfl, rfl, beq_iff_eq.2 h4⟩
    · exact ⟨rfl, rfl, by simp [rowSelectedAt, h0, h4]⟩
  · rintro ⟨hb, hwf, hj⟩
    cases i with
    | byteSof =>
      cases hb
      cases beq_iff_eq.1 hj
      rfl
    | byteHuntDiscard b =>
      cases hb
      cases beq_iff_eq.1 hj
      rw [rowOfByte, if_pos rfl, if_neg (mt (isPreamble_iff b).1 ((wfNotPreamble_iff b).1 hwf))]
    | byteData b =>
      cases hb
      obtain ⟨h0, h4⟩ : j ≠ 0 ∧ j ≠ 4 := by simpa [rowSelectedAt] using hj
      rw [rowOfByte, if_neg h0, if_neg h4]
    | byteLast b =>
      cases hb
      cases beq_iff_eq.1 hj
      rfl
    | _ => cases hb

/-! ## Encoding and decoding -/

theorem encode_of_byteOfRow {i : Instr} {b : Byte} (h : byteOfRow i = some b) : encode i = some [b] := by
  rw [encode, h]

/-- No row has both formats, so a FRAME row's encoding is its frame. -/
theorem byteOfRow_of_frameOfRow {i : Instr} {f : Frame} (h : frameOfRow i = some f) : byteOfRow i = none := by
  cases i with
  | frame | frameStdPress | frameStdRelease | frameMacro | frameInvalidKc | frameBadsum | frameBadpre => rfl
  | _ => cases h

theorem encode_of_frameOfRow {i : Instr} {f : Frame} (h : frameOfRow i = some f) : encode i = some (frameBytes f) := by
  rw [encode, byteOfRow_of_frameOfRow h, h, Option.map_some]

theorem encode_eq_some_iff {i : Instr} {bs : List Byte} :
    encode i = some bs ↔ (∃ b, bs = [b] ∧ byteOfRow i = some b) ∨ (∃ f, bs = frameBytes f ∧ frameOfRow i = some f) := by
  constructor
  · intro h
    cases hb : byteOfRow i with
    | some b => exact .inl ⟨b, by simpa [encode_of_byteOfRow hb] using h.symm, rfl⟩
    | none =>
      rw [encode, hb] at h
      obtain ⟨f, hf, rfl⟩ := Option.map_eq_some_iff.1 h
      exact .inr ⟨f, rfl, hf⟩
  · rintro (⟨b, rfl, hb⟩ | ⟨f, rfl, hf⟩)
    · exact encode_of_byteOfRow hb
    · exact encode_of_frameOfRow hf

/-- The position selects among the BYTE rows only. -/
theorem rowSelectedAt_of_frameOfRow {i : Instr} {f : Frame} (h : frameOfRow i = some f) (j : Idx) :
    rowSelectedAt i j = true := by
  cases i with
  | frame | frameStdPress | frameStdRelease | frameMacro | frameInvalidKc | frameBadsum | frameBadpre => rfl
  | _ => cases h

theorem exists_frameBytes_of_length {bs : List Byte} (h : bs.length = 5) : ∃ f, bs = frameBytes f :=
  match bs, h with
  | [b0, b1, b2, b3, b4], _ => ⟨⟨b0, b1, b2, b3, b4⟩, rfl⟩

/-- The decoder by the shape of its list: one byte is R68's, a frame's bytes are R67's, nothing else decodes (R60). -/
theorem decodeBytes_cases {j : Idx} {bs : List Byte} {i : Instr} :
    decodeBytes j bs = .ok i ↔ (∃ b, bs = [b] ∧ rowOfByte j b = i) ∨ (∃ f, bs = frameBytes f ∧ rowOfFrame f = i) := by
  constructor
  · intro h
    unfold decodeBytes at h
    split at h
    next b => exact .inl ⟨b, rfl, Except.ok.inj h⟩
    next b0 b1 b2 b3 b4 => exact .inr ⟨⟨b0, b1, b2, b3, b4⟩, rfl, Except.ok.inj h⟩
    next => cases h
  · rintro (⟨b, rfl, h⟩ | ⟨f, rfl, h⟩)
    · exact decodeBytes_byte_eq_ok.2 h
    · exact decodeBytes_frame_eq_ok.2 h

/-- The decoder against the encoder: bytes decode to the one well-formed row that has them and that the position selects, the generic
FRAME aside. -/
theorem decodeBytes_eq_ok_iff {j : Idx} {bs : List Byte} {i : Instr} :
    decodeBytes j bs = .ok i ↔
      encode i = some bs ∧ i.wf = true ∧ rowSelectedAt i j = true ∧ ∀ lo hi p c, i ≠ .frame lo hi p c := by
  rw [decodeBytes_cases, encode_eq_some_iff]
  constructor
  · rintro (⟨b, rfl, h⟩ | ⟨f, rfl, h⟩)
    · obtain ⟨hb, hwf, hj⟩ := rowOfByte_eq_iff.1 h
      exact ⟨.inl ⟨b, rfl, hb⟩, hwf, hj, by rintro lo hi p c rfl; cases hb⟩
    · obtain ⟨hf, hwf, hgen⟩ := rowOfFrame_eq_iff.1 h
      exact ⟨.inr ⟨f, rfl, hf⟩, hwf, rowSelectedAt_of_frameOfRow hf j, hgen⟩
  · rintro ⟨⟨b, rfl, hb⟩ | ⟨f, rfl, hf⟩, hwf, hj, hgen⟩
    · exact .inl ⟨b, rfl, rowOfByte_eq_iff.2 ⟨hb, hwf, hj⟩⟩
    · exact .inr ⟨f, rfl, rowOfFrame_eq_iff.2 ⟨hf, hwf, hgen⟩⟩

theorem exists_decodeBytes_iff {j : Idx} {bs : List Byte} :
    (∃ i, decodeBytes j bs = .ok i) ↔ bs.length = 1 ∨ bs.length = 5 := by
  constructor
  · rintro ⟨i, h⟩
    obtain ⟨b, rfl, -⟩ | ⟨f, rfl, -⟩ := decodeBytes_cases.1 h
    · exact .inl rfl
    · exact .inr rfl
  · rintro (h | h)
    · obtain ⟨b, rfl⟩ := List.length_eq_one_iff.1 h
      exact ⟨_, rfl⟩
    · obtain ⟨f, rfl⟩ := exists_frameBytes_of_length h
      exact ⟨_, rfl⟩

/-- Settles O51: the rows by `decodeBytes_eq_ok_iff`; the generic FRAME's bytes are a frame's, whose row encodes to them
(`rowOfFrame_spec`). -/
theorem decodeOfEncodeIsTheRow : Obligations.DecodeOfEncodeIsTheRow := by
  unfold Obligations.DecodeOfEncodeIsTheRow
  refine ⟨fun i j bs hgen hwf hj henc => decodeBytes_eq_ok_iff.2 ⟨henc, hwf, hj, hgen⟩, fun lo hi p c j => ?_⟩
  obtain ⟨hf, -, -⟩ := rowOfFrame_spec ⟨0x69#8, lo, hi, p, c⟩
  exact ⟨_, rfl, rfl, encode_of_frameOfRow hf⟩

/-- Settles O52, by `decodeBytes_eq_ok_iff`. -/
theorem encodeOfDecodeIsTheBytes : Obligations.EncodeOfDecodeIsTheBytes := by
  unfold Obligations.EncodeOfDecodeIsTheBytes
  refine fun j bs => ⟨fun i h => ?_, exists_decodeBytes_iff⟩
  obtain ⟨henc, hwf, hj, -⟩ := decodeBytes_eq_ok_iff.1 h
  exact ⟨henc, hwf, hj⟩

/-! ## The byte patterns of R67's map -/

/-- The mask 0xF0 of R144. -/
theorem extractLsb'_high_nibble_eq_iff (lo : Byte) : lo.extractLsb' 4 4 = 0xF#4 ↔ 0xF0 ≤ lo.toNat := by
  have := lo.isLt
  rw [← BitVec.toNat_inj, BitVec.extractLsb'_toNat, Nat.shiftRight_eq_div_pow]
  simp
  omega

/-- The field nnnn of FRAME.MACRO. -/
theorem low_nibble_toNat (lo : Byte) : ((lo.extractLsb' 0 4).setWidth 16).toNat = lo.toNat % 16 := by
  simp
  omega

/-- R67 row 5: the code of a low byte 0xFn under the high byte 0xFF is BAND_START + n. -/
theorem macroCode_low_nibble {lo : Byte} (h : 0xF0 ≤ lo.toNat) :
    macroCode ((lo.extractLsb' 0 4).setWidth 16) = keycodeOf lo 0xFF#8 := by
  have hlo := lo.isLt
  have hn := low_nibble_toNat lo
  apply BitVec.eq_of_toNat_eq
  rw [macroCode_toNat (by omega), keycodeOf_toNat, hn, BitVec.toNat_ofNat]
  omega

/-- Settles O57: each row has the frame's bytes and its constraint is the pattern's, so it is the decoder's
(`rowOfFrame_of_frameOfRow`). -/
theorem frameMapSelectsByBytePatterns : Obligations.FrameMapSelectsByBytePatterns := by
  unfold Obligations.FrameMapSelectsByBytePatterns
  intro f
  refine ⟨rowOfFrame_badPreamble, fun h hc => rowOfFrame_badSum h ?_, fun h hc => ?_⟩
  · rw [frameSum_eq, h]
    exact hc.symm
  · have hsum : frameSum f = f.cksum := by rw [frameSum_eq, h, hc]
    obtain ⟨lo, hi, p, rfl⟩ : ∃ lo hi p, f = sealedFrame lo hi p := ⟨_, _, _, eq_sealedFrame h hsum⟩
    simp only [sealedFrame_kcLo, sealedFrame_kcHi, sealedFrame_pressed]
    refine ⟨?stdPress, ?stdRelease, ?band, ?null, ?belowBand, ?gap⟩
    case stdPress =>
      rintro rfl h0 hFF hp
      exact rowOfFrame_of_frameOfRow rfl (Bool.and_eq_true_iff.2 ⟨(wfStdLo_iff_ne lo).2 ⟨h0, hFF⟩, bne_iff_ne.2 hp⟩) nofun
    case stdRelease =>
      rintro rfl h0 hFF rfl
      exact rowOfFrame_of_frameOfRow rfl ((wfStdLo_iff_ne lo).2 ⟨h0, hFF⟩) nofun
    case band =>
      rintro rfl hlo
      have hcode := macroCode_low_nibble ((extractLsb'_high_nibble_eq_iff lo).1 hlo)
      refine rowOfFrame_of_frameOfRow ?_ ((wfMacroOffset_iff _).2 ?_) nofun
      · simp only [frameOfRow, hcode, keycodeLo_of, keycodeHi_of]
      · rw [low_nibble_toNat]
        omega
    case null =>
      rintro rfl (rfl | rfl) <;> exact rowOfFrame_of_frameOfRow rfl rfl nofun
    case belowBand =>
      rintro rfl hlo
      rw [ne_eq, extractLsb'_high_nibble_eq_iff] at hlo
      exact rowOfFrame_of_frameOfRow rfl ((wfInvalidKc_iff _ _).2 (by simp; omega)) nofun
    case gap =>
      intro h0 hFF
      exact rowOfFrame_of_frameOfRow rfl ((wfInvalidKc_iff _ _).2 (by bv_omega)) nofun

/-! ## The table's words (log entry 9) -/

theorem decodeTableWord_eq_some_iff {nbits w : Nat} {i : Instr} :
    decodeTableWord nbits w = some i ↔
      (nbits = 8 ∧ rowOfByte 0 (BitVec.ofNat 8 w) = i) ∨ (nbits = 40 ∧ rowOfFrame (frameOfWord w) = i) := by
  constructor
  · intro h
    unfold decodeTableWord at h
    split at h
    next bs hbs =>
      unfold tableWordBytes at hbs
      split at hbs <;> cases hbs
      · exact .inl ⟨rfl, Option.some.inj h⟩
      · exact .inr ⟨rfl, Option.some.inj h⟩
    next => cases h
  · rintro (⟨rfl, rfl⟩ | ⟨rfl, rfl⟩) <;> rfl

/-- Settles O53: each word is evaluated. -/
theorem sampleWordsDecodeToTheirRows : Obligations.SampleWordsDecodeToTheirRows := by
  unfold Obligations.SampleWordsDecodeToTheirRows
  decide

/-- The state that presents an input, once the schedule has moved past it. -/
theorem presentInput_schedule {s : State} {k : Block} (h : s.block = some k) (x : Input) :
    (presentInput x s).schedule s.inputs = { s with block := some { k with idx := 0 } } := by
  rw [presentInput, h]
  rfl

theorem presentInput_block {s : State} {k : Block} (h : s.block = some k) (x : Input) :
    (presentInput x s).block = some (k.goto 0) := by
  rw [presentInput, h]
  rfl

/-- Settles O55: the word is presented as its byte at IDX = 0 or as its frame, and the step runs that input's row. -/
theorem stepAfterWithFetchWordRunsTheWord : Obligations.StepAfterWithFetchWordRunsTheWord := by
  unfold Obligations.StepAfterWithFetchWordRunsTheWord
  intro nbits w i s k hs hw
  obtain ⟨rfl, rfl⟩ | ⟨rfl, rfl⟩ := decodeTableWord_eq_some_iff.1 hw
  · rw [← presentInput_schedule hs]
    exact step_byte (presentInput_block hs _) rfl
  · rw [← presentInput_schedule hs]
    exact step_frame (presentInput_block hs _) rfl

/-- Settles O56. -/
theorem arrivalsAppendAndIdleKeepsState : Obligations.ArrivalsAppendAndIdleKeepsState :=
  fun _ => ⟨fun _ _ => step_arrive, step_idle⟩

/-! ## The FRAME rows are FRAMEDONE's actions on their bytes, and then IDX is 0 (R67, R157) -/

theorem frameActions_stdPress {lo p : Byte} (h : wfStdLo lo = true) (hp : wfPressed p = true) :
    frameActions (sealedFrame lo 0x00#8 p) = [.assertKey (keycodeOf lo 0x00#8)] := by
  rw [frameActions_sealed, beq_iff_eq.1 h]
  exact if_pos hp

theorem frameActions_stdRelease {lo : Byte} (h : wfStdLo lo = true) :
    frameActions (sealedFrame lo 0x00#8 0x00#8) = [.releaseKey (keycodeOf lo 0x00#8)] := by
  rw [frameActions_sealed, beq_iff_eq.1 h]
  rfl

theorem frameActions_macroCode {n : Keycode} (h : n.toNat < 16) (p : Byte) :
    frameActions (sealedFrame (keycodeLo (macroCode n)) (keycodeHi (macroCode n)) p)
      = [.raiseKeyEvent (macroCode n) (pressedFlag p)] := by
  rw [frameActions_sealed, keycodeOf_lo_hi, classify_macroCode h]

theorem frameActions_invalidKc {lo hi : Byte} (h : wfInvalidKc lo hi = true) (p : Byte) :
    frameActions (sealedFrame lo hi p) = [] := by
  rw [frameActions_sealed, beq_iff_eq.1 h]

theorem onReceiver_completes_ite (s : State) {c : Bool} {as bs : List Action} (h : c = true → as = bs) :
    onReceiver s (completes (if c then as else bs)) = onReceiver s (completes bs) := by
  rw [ite_eq_right_iff.2 h]

/-- Each row's own wording in the effect column is what FRAMEDONE emits for the row's frame. -/
theorem exec_of_frameOfRow {i : Instr} {f : Frame} (hf : frameOfRow i = some f) (hgen : ∀ lo hi p c, i ≠ .frame lo hi p c)
    (s : State) : exec i s = onReceiver s (completes (frameActions f)) := by
  cases i with
  | frame lo hi p c => exact absurd rfl (hgen lo hi p c)
  | frameStdPress lo p =>
    cases hf
    refine onReceiver_completes_ite s fun hwf => ?_
    obtain ⟨hlo, hp⟩ := Bool.and_eq_true_iff.1 hwf
    exact (frameActions_stdPress hlo hp).symm
  | frameStdRelease lo =>
    cases hf
    exact onReceiver_completes_ite s fun hwf => (frameActions_stdRelease hwf).symm
  | frameMacro n p =>
    cases hf
    exact onReceiver_completes_ite s fun hwf => (frameActions_macroCode ((wfMacroOffset_iff n).1 hwf) p).symm
  | frameInvalidKc lo hi p =>
    cases hf
    exact onReceiver_completes_ite s fun hwf => (frameActions_invalidKc hwf p).symm
  | frameBadsum lo hi p c =>
    cases hf
    refine onReceiver_completes_ite s fun hwf => ?_
    rw [frameActions_badSum rfl (wfBadsum_iff.1 hwf), frameSum_eq, raise]
  | frameBadpre first lo hi p c =>
    cases hf
    refine onReceiver_completes_ite s fun hwf => ?_
    rw [frameActions_badPreamble ((wfNotPreamble_iff first).1 hwf), raise]
  | _ => cases hf

/-- A FRAME row at a Master. -/
theorem exec_frameRow_master {s : State} {k : Block} (hs : s.block = some k) (hr : k.role = .master) {i : Instr} {f : Frame}
    (hf : frameOfRow i = some f) (hgen : ∀ lo hi p c, i ≠ .frame lo hi p c) :
    exec i s = .next { s with block := some { k with idx := 0 }, trace := s.trace ++ frameActions f } :=
  (exec_of_frameOfRow hf hgen s).trans (onReceiver_master hs hr _)

theorem exec_framedone_master {s : State} {k : Block} (hs : s.block = some k) (hr : k.role = .master) :
    exec .framedone s = .next { s with trace := s.trace ++ frameActions k.buf } := by
  refine (onReceiver_master hs hr _).trans ?_
  rw [State.withBlock_of_eq hs, State.emit]

/-- Settles O23: the row of BUF has BUF's bytes (`rowOfFrame_spec`), so its actions are FRAMEDONE's. -/
theorem framedoneIsTheRowOfItsBytes : Obligations.FramedoneIsTheRowOfItsBytes := by
  unfold Obligations.FramedoneIsTheRowOfItsBytes
  intro s k hs hr
  obtain ⟨hf, -, hgen⟩ := rowOfFrame_spec k.buf
  exact ⟨frameActions k.buf, exec_framedone_master hs hr, exec_frameRow_master hs hr hf hgen⟩

theorem keycodeOf_zero (lo : Byte) : keycodeOf lo 0x00#8 = BitVec.ofNat 16 lo.toNat := by
  apply BitVec.eq_of_toNat_eq
  rw [keycodeOf_toNat]
  simp
  omega

theorem macroCode_eq_ofNat (n : Keycode) : macroCode n = BitVec.ofNat 16 (0xFFF0 + n.toNat) := by
  rw [macroCode, bandStart_eq, BitVec.ofNat_add, BitVec.ofNat_toNat, BitVec.setWidth_eq]

theorem pressedFlag_eq_decide (p : Byte) : pressedFlag p = decide (p ≠ 0x00#8) := by
  simp [pressedFlag, bne, Bool.beq_eq_decide_eq]

/-- Settles O18: the keycode's class decides what FRAMEDONE emits. -/
theorem keyFrameRowsDeliverOneHostAction : Obligations.KeyFrameRowsDeliverOneHostAction := by
  unfold Obligations.KeyFrameRowsDeliverOneHostAction
  intro s k hs hr
  refine ⟨?press, ?release, ?band⟩
  case press =>
    intro lo p h1 h2 hp
    refine Eq.trans (exec_frameRow_master hs hr rfl nofun) ?_
    rw [frameActions_stdPress ((wfStdLo_iff lo).2 ⟨h1, h2⟩) (bne_iff_ne.2 hp), keycodeOf_zero]
  case release =>
    intro lo h1 h2
    refine Eq.trans (exec_frameRow_master hs hr rfl nofun) ?_
    rw [frameActions_stdRelease ((wfStdLo_iff lo).2 ⟨h1, h2⟩), keycodeOf_zero]
  case band =>
    intro n p hn
    refine Eq.trans (exec_frameRow_master hs hr rfl nofun) ?_
    rw [frameActions_macroCode hn, macroCode_eq_ofNat, pressedFlag_eq_decide]

/-- Settles O19. -/
theorem invalidKeycodeFrameIsDroppedInSilence : Obligations.InvalidKeycodeFrameIsDroppedInSilence := by
  unfold Obligations.InvalidKeycodeFrameIsDroppedInSilence
  intro lo hi p s k hs hr hc
  refine Eq.trans (exec_frameRow_master hs hr rfl nofun) ?_
  rw [frameActions_invalidKc ((wfInvalidKc_iff lo hi).2 hc), List.append_nil]

/-- Settles O20. -/
theorem badChecksumFrameIsReportedOnce : Obligations.BadChecksumFrameIsReportedOnce := by
  unfold Obligations.BadChecksumFrameIsReportedOnce
  intro lo hi p c s k hs hr hc
  have hsum : frameSum ⟨preambleByte, lo, hi, p, c⟩ ≠ c := by
    rw [frameSum_eq]
    exact hc.symm
  refine Eq.trans (exec_frameRow_master hs hr rfl nofun) ?_
  rw [frameActions_badSum rfl hsum, frameSum_eq, preambleByte_eq]

/-- Settles O21. -/
theorem badPreambleFrameIsReportedOnce : Obligations.BadPreambleFrameIsReportedOnce := by
  unfold Obligations.BadPreambleFrameIsReportedOnce
  intro first lo hi p c s k hs hr hb
  refine Eq.trans (exec_frameRow_master hs hr rfl nofun) ?_
  rw [frameActions_badPreamble hb]

end Sys2Proof.Machine
end

section
/-! PROOFS of the family 40_checksum.md: CHECKSUM8 is the sum of its bytes in the ring of bytes (R90, R91). -/

namespace Sys2Proof.Machine

/-- The accumulator's result is the list's sum in the ring of bytes, so the library's laws of sums are R91's. -/
theorem checksum8_eq_sum (xs : List Byte) : checksum8 xs = xs.sum :=
  List.sum_eq_foldl.symm

theorem checksum8_eq_ofNat (xs : List Byte) : checksum8 xs = BitVec.ofNat 8 (xs.map fun x => x.toNat).sum := by
  induction xs with
  | nil => rfl
  | cons x xs ih =>
    rw [checksum8_cons, ih, List.map_cons, List.sum_cons, BitVec.ofNat_add, BitVec.ofNat_toNat, BitVec.setWidth_eq]

/-- Settles O6: the row returns the accumulator's result, and that is the integer sum modulo 256 (`checksum8_eq_ofNat`). -/
theorem checksum8ReturnsSumModulo256 : Obligations.Checksum8ReturnsSumModulo256 := by
  unfold Obligations.Checksum8ReturnsSumModulo256
  intro xs s k hs
  rw [← checksum8_eq_ofNat]
  exact returning_some hs _

theorem checksum8_append (xs ys : List Byte) : checksum8 (xs ++ ys) = checksum8 xs + checksum8 ys := by
  simp only [checksum8_eq_sum, List.sum_append]

theorem checksum8_perm {xs ys : List Byte} (h : xs.Perm ys) : checksum8 xs = checksum8 ys := by
  rw [checksum8_eq_sum, checksum8_eq_sum, h.sum_eq]

/-- R91 d: the result moves by the byte's difference. -/
theorem checksum8_sub_of_byte (xs ys : List Byte) (x x' : Byte) :
    checksum8 (xs ++ x' :: ys) - checksum8 (xs ++ x :: ys) = x' - x := by
  simp only [checksum8_append, checksum8_cons]
  abel

/-- Settles O7: b and c are the laws of a sum, d is `checksum8_sub_of_byte`, and e applies d to each of the two bytes. -/
theorem checksum8Laws : Obligations.Checksum8Laws := by
  unfold Obligations.Checksum8Laws
  refine ⟨checksum8_append, fun _ _ => checksum8_perm, fun xs ys x x' => ⟨checksum8_sub_of_byte xs ys x x', ?differ⟩, ?cancel⟩
  case differ =>
    intro hne heq
    have hd := checksum8_sub_of_byte xs ys x x'
    rw [heq, sub_self] at hd
    exact hne (sub_eq_zero.1 hd.symm).symm
  case cancel =>
    intro xs ys zs x x' y y' h
    have hx := checksum8_sub_of_byte xs (ys ++ y :: zs) x x'
    have hy := checksum8_sub_of_byte (xs ++ x' :: ys) zs y y'
    rw [← hx, ← hy] at h
    simp only [List.append_assoc, List.cons_append, sub_add_sub_cancel'] at h ⊢
    exact (sub_eq_zero.1 h).symm

end Sys2Proof.Machine
end

section
/-! PROOFS of the family 41_frame_codec.md: ENCODE and DECODE as rows, the round trip between events and frames (R100 to R106), and which
corruptions of a valid frame DECODE reports (R108). -/

namespace Sys2Proof.Machine

/-! ## The bytes of an event, as numbers (R41, R63, R64) -/

theorem keycodeLo_eq_ofNat (c : Keycode) : keycodeLo c = BitVec.ofNat 8 (c.toNat % 256) := by
  rw [← keycodeLo_toNat, BitVec.ofNat_toNat, BitVec.setWidth_eq]

theorem keycodeHi_eq_ofNat (c : Keycode) : keycodeHi c = BitVec.ofNat 8 (c.toNat / 256) := by
  rw [← keycodeHi_toNat, BitVec.ofNat_toNat, BitVec.setWidth_eq]

theorem keycodeOf_eq_ofNat (lo hi : Byte) : keycodeOf lo hi = BitVec.ofNat 16 (hi.toNat * 256 + lo.toNat) := by
  rw [← keycodeOf_toNat, BitVec.ofNat_toNat, BitVec.setWidth_eq]

theorem pressedByte_toNat (p : Bool) : (pressedByte p).toNat = if p then 1 else 0 := by
  cases p <;> rfl

theorem pressedFlag_eq_iff {b : Byte} {p : Bool} : pressedFlag b = p ↔ (b ≠ 0x00#8 ↔ p = true) := by
  rw [Bool.eq_iff_iff, pressedFlag, bne_iff_ne]

/-- A pressed byte that keeps its value when narrowed and widened again is 0 or 1. -/
theorem pressedByte_pressedFlag_eq_iff {b : Byte} : pressedByte (pressedFlag b) = b ↔ b = 0x00#8 ∨ b = 0x01#8 := by
  by_cases h : b = 0x00#8
  · simp [h, pressedFlag, pressedByte]
  · have hb : pressedByte (pressedFlag b) = 0x01#8 := by rw [pressedFlag, bne_iff_ne.2 h, pressedByte, if_pos rfl]
    rw [hb, or_iff_right h, eq_comm]

/-! ## The pure rows -/

/-- Settles O8: ENCODE seals the event's bytes, and the checksum is the integer sum of its four bytes (`checksum8_eq_ofNat`). -/
theorem encodeReturnsPackedFrame : Obligations.EncodeReturnsPackedFrame := by
  unfold Obligations.EncodeReturnsPackedFrame
  intro c p s k hs
  refine (returning_some hs _).trans ?_
  have hsum : checksum8 [preambleByte, keycodeLo c, keycodeHi c, pressedByte p]
      = BitVec.ofNat 8 (0x69 + c.toNat % 256 + c.toNat / 256 + (if p then 1 else 0)) := by
    rw [checksum8_eq_ofNat]
    simp only [List.map_cons, List.map_nil, List.sum_cons, List.sum_nil, keycodeLo_toNat, keycodeHi_toNat, pressedByte_toNat,
      preambleByte_eq, BitVec.toNat_ofNat, Nat.add_zero, Nat.add_assoc]
  rw [encodeFrame, sealedFrame, hsum, keycodeLo_eq_ofNat, keycodeHi_eq_ofNat]
  rfl

theorem decodeFrame_of_badPreamble {f : Frame} (h : f.preamble ≠ preambleByte) : decodeFrame f = .preambleMismatch := by
  rw [decodeFrame_eq, if_pos h]

theorem decodeFrame_of_badSum {f : Frame} (h : f.preamble = preambleByte) (h' : frameSum f ≠ f.cksum) :
    decodeFrame f = .checksumMismatch := by
  rw [decodeFrame_eq, if_neg (not_not.2 h), if_pos h']

theorem decodeFrame_of_tests {f : Frame} (h : f.preamble = preambleByte) (h' : frameSum f = f.cksum) :
    decodeFrame f = .ok (keycodeOf f.kcLo f.kcHi) (pressedFlag f.pressed) := by
  rw [decodeFrame_eq, if_neg (not_not.2 h), if_neg (not_not.2 h')]

theorem exec_decode {s : State} {k : Block} (hs : s.block = some k) {f : Frame} {r : DecodeResult} (h : decodeFrame f = r) :
    exec (.decode f) s = .next { s with returned := s.returned ++ [.decoded r] } :=
  h ▸ returning_some hs _

/-- Settles O9. -/
theorem decodeTestsPreambleThenChecksum : Obligations.DecodeTestsPreambleThenChecksum := by
  unfold Obligations.DecodeTestsPreambleThenChecksum
  intro f s k hs
  rw [← frameSum_eq, ← keycodeOf_eq_ofNat, ← pressedFlag_eq_decide]
  exact ⟨fun h => exec_decode hs (decodeFrame_of_badPreamble h), fun h h' => exec_decode hs (decodeFrame_of_badSum h h'),
    fun h h' => exec_decode hs (decodeFrame_of_tests h h')⟩

/-- The FRAME row's own wording is DECODE of a frame with the preamble. -/
theorem decodeFrame_preambleByte (lo hi p c : Byte) :
    decodeFrame ⟨preambleByte, lo, hi, p, c⟩ =
      if c = preambleByte + lo + hi + p then .ok (keycodeOf lo hi) (pressedFlag p) else .checksumMismatch := by
  by_cases h : c = preambleByte + lo + hi + p
  · rw [if_pos h]
    exact decodeFrame_of_tests rfl ((frameSum_eq _).trans h.symm)
  · rw [if_neg h]
    exact decodeFrame_of_badSum rfl fun h' => h (h'.symm.trans (frameSum_eq _))

/-- Settles O17. -/
theorem genericFrameRowReturnsItsDecoding : Obligations.GenericFrameRowReturnsItsDecoding := by
  unfold Obligations.GenericFrameRowReturnsItsDecoding
  intro lo hi p c s k hs
  rw [← preambleByte_eq, decodeFrame_preambleByte]
  exact returning_some hs _

/-! ## Events and frames -/

/-- Settles O10. -/
theorem decodeOfEncodeIsTheEvent : Obligations.DecodeOfEncodeIsTheEvent := by
  unfold Obligations.DecodeOfEncodeIsTheEvent
  intro c p
  rw [encodeFrame, decodeFrame_sealed, keycodeOf_lo_hi, pressedFlag_pressedByte]

theorem isValidFrame_iff {f : Frame} : isValidFrame f = true ↔ f.preamble = preambleByte ∧ frameSum f = f.cksum := by
  rw [isValidFrame, Bool.and_eq_true, isPreamble_iff, cksumMatches_iff]

/-- R66: DECODE succeeds exactly on the valid frames. -/
theorem decodeFrame_eq_ok_iff {f : Frame} {c : Keycode} {p : Bool} :
    decodeFrame f = .ok c p ↔ isValidFrame f = true ∧ keycodeOf f.kcLo f.kcHi = c ∧ pressedFlag f.pressed = p := by
  rw [isValidFrame_iff]
  by_cases h : f.preamble = preambleByte
  · by_cases h' : frameSum f = f.cksum
    · simp [decodeFrame_of_tests h h', h, h']
    · simp [decodeFrame_of_badSum h h', h']
  · simp only [decodeFrame_of_badPreamble h, h, reduceCtorEq, false_and]

theorem keycodeOf_eq_iff {lo hi : Byte} {c : Keycode} : keycodeOf lo hi = c ↔ lo = keycodeLo c ∧ hi = keycodeHi c := by
  constructor
  · rintro rfl
    exact ⟨(keycodeLo_of lo hi).symm, (keycodeHi_of lo hi).symm⟩
  · rintro ⟨rfl, rfl⟩
    exact keycodeOf_lo_hi c

/-- R66: of the valid frames, encoding the decoded event again restores the canonical ones. -/
theorem isCanonicalFrame_iff {f : Frame} :
    isCanonicalFrame f = true ↔ encodeFrame (keycodeOf f.kcLo f.kcHi) (pressedFlag f.pressed) = f := by
  rw [isCanonicalFrame, Bool.and_eq_true, Bool.or_eq_true, beq_iff_eq, beq_iff_eq, ← pressedByte_pressedFlag_eq_iff,
    isValidFrame_iff_sealed, encodeFrame, keycodeLo_of, keycodeHi_of]
  constructor
  · rintro ⟨hf, hp⟩
    rw [hp, ← hf]
  · intro h
    have hp : pressedByte (pressedFlag f.pressed) = f.pressed := congrArg Frame.pressed h
    rw [hp] at h
    exact ⟨h.symm, hp⟩

theorem isValidFrame_encodeFrame (c : Keycode) (p : Bool) : isValidFrame (encodeFrame c p) = true :=
  isValidFrame_sealed _ _ _

/-- Settles O11: an encoded frame is canonical because it decodes to its event, and bytes 1 to 3 determine the event. -/
theorem encodeImageIsTheCanonicalFrames : Obligations.EncodeImageIsTheCanonicalFrames := by
  unfold Obligations.EncodeImageIsTheCanonicalFrames
  refine ⟨fun f => ⟨?canonical, fun h => ⟨_, _, isCanonicalFrame_iff.1 h⟩⟩, ?injective,
    fun c p => ⟨rfl, rfl, isValidFrame_encodeFrame c p⟩⟩
  case canonical =>
    rintro ⟨c, p, rfl⟩
    obtain ⟨-, hc, hp⟩ := decodeFrame_eq_ok_iff.1 (decodeOfEncodeIsTheEvent c p)
    rw [isCanonicalFrame_iff, hc, hp]
  case injective =>
    intro c c' p p' hne
    contrapose! hne
    obtain ⟨hlo, hhi, hp⟩ := hne
    refine Prod.ext ?_ ?_
    · rw [← keycodeOf_lo_hi c, ← keycodeOf_lo_hi c']
      exact congrArg₂ keycodeOf hlo hhi
    · rw [← pressedFlag_pressedByte p, ← pressedFlag_pressedByte p']
      exact congrArg pressedFlag hp

/-- A valid frame that is not canonical has a pressed byte of flag true. -/
theorem pressedFlag_of_not_canonical {f : Frame} (hv : isValidFrame f = true) (hc : isCanonicalFrame f = false) :
    pressedFlag f.pressed = true := by
  have hp : f.pressed ≠ 0x00#8 := by
    intro h
    simp [isCanonicalFrame, hv, h] at hc
  exact bne_iff_ne.2 hp

/-- Settles O12: `decodeFrame_eq_ok_iff` gives the frames of an event, `isCanonicalFrame_iff` those that encoding restores. -/
theorem reencodingRestoresExactlyCanonicalFrames : Obligations.ReencodingRestoresExactlyCanonicalFrames := by
  unfold Obligations.ReencodingRestoresExactlyCanonicalFrames
  intro f c p
  refine ⟨?frames, fun h => ?again⟩
  case frames =>
    rw [decodeFrame_eq_ok_iff, keycodeOf_eq_iff, pressedFlag_eq_iff, and_assoc]
  case again =>
    obtain ⟨hv, rfl, rfl⟩ := decodeFrame_eq_ok_iff.1 h
    refine ⟨isCanonicalFrame_iff.symm, fun hc => ?_⟩
    rw [pressedFlag_of_not_canonical hv hc]
    rfl

/-! ## Corruption (R108) -/

/-- The sum of the differences of bytes 1 to 4, the checksum byte counted against the others (R108). -/
def bodyDifference (f g : Frame) : Byte :=
  (g.kcLo - f.kcLo) + (g.kcHi - f.kcHi) + (g.pressed - f.pressed) - (g.cksum - f.cksum)

/-- Against a valid frame with the same byte 0, the differences add up to what the checksum test of g compares. -/
theorem bodyDifference_of_valid {f g : Frame} (hf : isValidFrame f = true) (h0 : g.preamble = f.preamble) :
    bodyDifference f g = frameSum g - g.cksum := by
  obtain ⟨-, hsum⟩ := isValidFrame_iff.1 hf
  rw [bodyDifference, ← hsum, frameSum_eq, frameSum_eq, h0]
  abel

/-- One byte written anywhere but at position 0: the whole sum is its difference, up to the sign. -/
theorem bodyDifference_slotSet (f : Frame) {i : Idx} (hi : i ≠ 0) (v : Byte) :
    bodyDifference f (slotSet f i v) = if i = 4 then -(v - slotGet f i) else v - slotGet f i :=
  match i with
  | 0 => absurd rfl hi
  | 1 | 2 | 3 | 4 => by simp [bodyDifference, slotSet, slotGet]

section
variable {f g : Frame} (hf : isValidFrame f = true)
include hf

theorem decodeFrame_of_preamble_ne (h0 : g.preamble ≠ f.preamble) : decodeFrame g = .preambleMismatch :=
  decodeFrame_of_badPreamble ((isValidFrame_iff.1 hf).1 ▸ h0)

theorem decodeFrame_of_bodyDifference_ne_zero (h0 : g.preamble = f.preamble) (h : bodyDifference f g ≠ 0#8) :
    decodeFrame g = .checksumMismatch := by
  rw [bodyDifference_of_valid hf h0] at h
  exact decodeFrame_of_badSum (h0.trans (isValidFrame_iff.1 hf).1) (sub_ne_zero.1 h)

theorem decodeFrame_of_bodyDifference_eq_zero (h0 : g.preamble = f.preamble) (h : bodyDifference f g = 0#8) :
    decodeFrame g = .ok (keycodeOf g.kcLo g.kcHi) (pressedFlag g.pressed) := by
  rw [bodyDifference_of_valid hf h0] at h
  exact decodeFrame_of_tests (h0.trans (isValidFrame_iff.1 hf).1) (sub_eq_zero.1 h)

/-- One changed byte cannot cancel: at byte 0 it fails the preamble test, elsewhere its difference is the whole sum. -/
theorem decodeFrame_slotSet_ne {i : Idx} {v : Byte} (hv : v ≠ slotGet f i) :
    decodeFrame (slotSet f i v) = if i = 0 then .preambleMismatch else .checksumMismatch := by
  by_cases hi : i = 0
  · subst hi
    exact decodeFrame_of_preamble_ne hf hv
  · rw [if_neg hi]
    refine decodeFrame_of_bodyDifference_ne_zero hf (slotSet_preamble hi f v) ?_
    have hd : v - slotGet f i ≠ 0#8 := sub_ne_zero.2 hv
    rw [bodyDifference_slotSet f hi]
    split
    · exact neg_ne_zero.2 hd
    · exact hd

end

/-- Settles O13. -/
theorem corruptionIsReportedUnlessDifferencesCancel : Obligations.CorruptionIsReportedUnlessDifferencesCancel := by
  unfold Obligations.CorruptionIsReportedUnlessDifferencesCancel
  intro f g hf
  exact ⟨fun h0 => decodeFrame_of_preamble_ne hf (sub_ne_zero.1 h0),
    fun h0 h => decodeFrame_of_bodyDifference_ne_zero hf (sub_eq_zero.1 h0) h,
    fun h0 h => ⟨_, _, decodeFrame_of_bodyDifference_eq_zero hf (sub_eq_zero.1 h0) h⟩⟩

theorem xor_bit_ne_self (b : Byte) (bit : Fin 8) : b ^^^ (1#8 <<< bit.val) ≠ b := by
  have hbit : 1#8 <<< bit.val ≠ 0#8 := by decide +revert
  intro h
  exact hbit ((BitVec.xor_right_inj b).1 (h.trans BitVec.xor_zero.symm))

/-- Settles O14: a flip changes its byte, and one changed byte is always detected (`decodeFrame_slotSet_ne`). -/
theorem everySingleBitFlipIsDetected : Obligations.EverySingleBitFlipIsDetected := by
  unfold Obligations.EverySingleBitFlipIsDetected
  intro f i bit hf
  exact decodeFrame_slotSet_ne hf (xor_bit_ne_self _ bit)

end Sys2Proof.Machine
end

section
/-! PROOFS of the family 42_resynchronizer.md: what one byte does to the receiver (R120 to R124, R130), and what a stream does (R126 to
R129). -/

namespace Sys2Proof.Machine

/-! ## One byte -/

/-- Every BYTE row is RXBYTE of its byte (R120), at every IDX and in either role. -/
theorem exec_of_byteOfRow {i : Instr} {b : Byte} (h : byteOfRow i = some b) (s : State) : exec i s = exec (.rxbyte b) s := by
  cases i with
  | byteSof => cases h; exact execByteSof_eq s
  | byteHuntDiscard b => cases h; exact execByteHuntDiscard_eq b s
  | byteData b => cases h; exact execByteData_eq b s
  | byteLast b => cases h; exact execByteLast_eq b s
  | _ => cases h

/-- Settles O28: the row that the decoder selects has the byte it was selected by. -/
theorem rxbyteRunsTheSelectedRow : Obligations.RxbyteRunsTheSelectedRow := by
  unfold Obligations.RxbyteRunsTheSelectedRow
  intro b s k _
  obtain ⟨hb, -, -⟩ := rowOfByte_eq_iff.1 (rfl : rowOfByte k.idx b = _)
  exact (exec_of_byteOfRow hb s).symm

section
variable {s : State} {k l : Block} {as : List Action} (hs : s.block = some k) (hr : k.role = .master)
include hs hr

theorem exec_rxbyte_master {b : Byte} (h : rxByte b k = (l, as)) :
    exec (.rxbyte b) s = .next { s with block := some l, trace := s.trace ++ as } := by
  refine (onReceiver_master hs hr _).trans ?_
  rw [h]
  rfl

theorem exec_byteRow_master {i : Instr} {b : Byte} (hi : byteOfRow i = some b) (h : rxByte b k = (l, as)) :
    exec i s = .next { s with block := some l, trace := s.trace ++ as } :=
  (exec_of_byteOfRow hi s).trans (exec_rxbyte_master hs hr h)

/-- Between positions 0 and 4 RXBYTE and BYTE.DATA store the byte, whatever it is, and move on by one (R123). -/
theorem exec_data_master {b : Byte} (h0 : k.idx ≠ 0) (h4 : k.idx ≠ 4) {i : Instr} (hi : i = .rxbyte b ∨ i = .byteData b) :
    exec i s = .next { s with block := some { k with idx := k.idx + 1, buf := slotSet k.buf k.idx b } } := by
  have hd := rxByte_data b h0 h4
  rw [← List.append_nil s.trace]
  obtain rfl | rfl := hi
  · exact exec_rxbyte_master hs hr hd
  · exact exec_byteRow_master hs hr rfl hd

/-- TICK at a Master is its loop over the bytes of RXQ (R151). -/
theorem exec_tickMaster {xs : List Byte} (h : drain xs k = (l, as)) :
    exec .tickMaster { s with rxq := xs } = .next { s with rxq := [], block := some l, trace := s.trace ++ as } := by
  refine (tick_master (s := { s with rxq := xs }) hs hr).trans ?_
  rw [h]
  rfl

/-- TICK over a concatenation goes on with the second part from where the first part leads (R127). -/
theorem exec_tickMaster_append {xs : List Byte} (h : drain xs k = (l, as)) (ys : List Byte) :
    exec .tickMaster { s with rxq := xs ++ ys } =
      exec .tickMaster { s with rxq := ys, block := some l, trace := s.trace ++ as } := by
  have hl : l.role = .master := by
    have hrole := drain_role xs k
    rw [h] at hrole
    exact hrole.trans hr
  rw [exec_tickMaster hs hr (drain_append xs ys k), h,
    exec_tickMaster (s := { s with block := some l, trace := s.trace ++ as }) rfl hl rfl, List.append_assoc]

end

/-- Settles O24. -/
theorem huntingDiscardsOtherBytes : Obligations.HuntingDiscardsOtherBytes := by
  unfold Obligations.HuntingDiscardsOtherBytes
  intro b s k hs hr h0 hb
  have hd := rxByte_discard h0 hb
  rw [exec_rxbyte_master hs hr hd, exec_byteRow_master hs hr rfl hd, ← hs]
  exact ⟨rfl, rfl⟩

/-- Settles O25. -/
theorem huntingTakesThePreamble : Obligations.HuntingTakesThePreamble := by
  unfold Obligations.HuntingTakesThePreamble
  intro s k hs hr h0
  have hd : rxByte preambleByte k = ({ k with idx := 1, buf := { k.buf with preamble := 0x69#8 } }, []) := by
    rw [rxByte_start h0, Block.store, h0]
    rfl
  have hsof := exec_byteRow_master (i := .byteSof) hs hr rfl hd
  have hrx := exec_rxbyte_master hs hr hd
  rw [List.append_nil] at hsof hrx
  exact ⟨hrx, hsof⟩

/-- Settles O26. -/
theorem accumulatingStoresEveryByte : Obligations.AccumulatingStoresEveryByte := by
  unfold Obligations.AccumulatingStoresEveryByte
  intro b s k hs hr
  refine ⟨fun h i hi => ?_, fun h i hi => ?_, fun h i hi => ?_⟩ <;>
    rw [exec_data_master hs hr (by rw [h]; decide) (by rw [h]; decide) hi, h] <;> rfl

theorem rxByte_fifth (b : Byte) {k : Block} (h : k.idx = 4) :
    rxByte b k = ({ k with idx := 0, buf := { k.buf with cksum := b } }, frameActions { k.buf with cksum := b }) := by
  rw [rxByte_last b h, Block.store, h, slotSet_four]
  rfl

/-- Settles O27: what both rows emit is what FRAMEDONE emits for the five bytes. -/
theorem fifthByteCompletesTheFrame : Obligations.FifthByteCompletesTheFrame := by
  unfold Obligations.FifthByteCompletesTheFrame
  intro b s k hs hr h4
  have hd := rxByte_fifth b h4
  refine ⟨frameActions { k.buf with cksum := b }, frameActions_length _, 
    exec_framedone_master (s := { s with block := some _ }) rfl hr, ?_⟩
  rintro i (rfl | rfl)
  · exact exec_rxbyte_master hs hr hd
  · exact exec_byteRow_master hs hr rfl hd

/-- FRAMEDONE raises a SyncError only where DECODE's preamble test fails (R162). -/
theorem syncError_notMem_frameActions {f : Frame} (h : f.preamble = preambleByte) (c : Byte) :
    Action.diag (.syncError c) ∉ frameActions f := by
  obtain h' | ⟨-, h'⟩ | ⟨lo, hi, p, rfl⟩ := frame_cases f
  · exact absurd h h'
  · simp [frameActions_badSum h h']
  · rw [frameActions_sealed]
    split
    · split <;> simp
    · simp
    · simp

/-- Settles O38: at IDX = 4 the invariant R23 b says that BUF[0] is the preamble, and the fifth byte leaves it. -/
theorem runningBlockNeverFailsThePreambleTest : Obligations.RunningBlockNeverFailsThePreambleTest := by
  unfold Obligations.RunningBlockNeverFailsThePreambleTest
  intro b k hinv h4
  have hpre : k.buf.preamble = preambleByte := hinv (h4 ▸ by decide)
  refine ⟨?decode, ?emitted⟩
  case decode =>
    have hdec := decodeFrame_preambleByte k.buf.kcLo k.buf.kcHi k.buf.pressed b
    rw [← hpre] at hdec
    rw [hdec]
    split <;> simp
  case emitted =>
    rw [rxByte_fifth b h4]
    rintro a ha c rfl
    exact syncError_notMem_frameActions (f := { k.buf with cksum := b }) hpre c ha

/-! ## Streams -/

/-- Settles O44. -/
theorem receivingIsALeftFold : Obligations.ReceivingIsALeftFold := by
  unfold Obligations.ReceivingIsALeftFold
  intro xs ys s k hs hr
  exact ⟨_, exec_tickMaster hs hr rfl, exec_tickMaster_append hs hr rfl ys⟩

/-- From IDX = 0 the preamble and any three bytes fill BUF[0..3] in silence (R122, R123). -/
theorem drain_preamble_three (x y z : Byte) {k : Block} (h : k.idx = 0) :
    drain [preambleByte, x, y, z] k = ({ k with idx := 4, buf := ⟨preambleByte, x, y, z, k.buf.cksum⟩ }, []) := by
  obtain ⟨role, idx, buf⟩ := k
  cases h
  rfl

/-- From IDX = 0 any five bytes that begin with the preamble are one candidate frame: FRAMEDONE acts on it and IDX is 0 again. -/
theorem drain_frameBytes {f : Frame} (hf : f.preamble = preambleByte) {k : Block} (h : k.idx = 0) :
    drain (frameBytes f) k = ({ k with buf := f }, frameActions f) := by
  have hsplit : frameBytes f = [preambleByte, f.kcLo, f.kcHi, f.pressed] ++ [f.cksum] := by rw [← hf]; rfl
  rw [hsplit, drain_append, drain_preamble_three _ _ _ h, drain_cons, rxByte_fifth _ rfl, ← h, ← hf]
  simp

/-- Settles O46. -/
theorem alignedFrameIsDispatched : Obligations.AlignedFrameIsDispatched := by
  unfold Obligations.AlignedFrameIsDispatched
  intro f rest s k hs hr h0 hf
  obtain ⟨hpre, -⟩ := isValidFrame_iff.1 hf
  exact exec_tickMaster_append hs hr (drain_frameBytes hpre h0) rest

/-- From IDX = 0 bytes that are not the preamble are discarded one by one (R121). -/
theorem drain_discard {g : List Byte} (hg : ∀ b ∈ g, b ≠ preambleByte) {k : Block} (h : k.idx = 0) :
    drain g k = (k, g.map fun b => .diag (.syncError b)) := by
  induction g with
  | nil => rfl
  | cons b g ih =>
    obtain ⟨hb, hg⟩ := List.forall_mem_cons.1 hg
    rw [drain_cons, rxByte_discard h hb, ih hg]
    rfl

/-- FRAMEDONE of an encoded event is the action the event asks for. -/
theorem frameActions_encodeFrame (c : Keycode) (p : Bool) : frameActions (encodeFrame c p) = (deliveredAction c p).toList := by
  rw [encodeFrame, frameActions_sealed, keycodeOf_lo_hi, pressedFlag_pressedByte, deliveredAction]
  cases classify c with
  | standardKey => cases p <;> rfl
  | remoteMacro n => rfl
  | invalid => rfl

/-- Settles O47: each of the three parts of the stream begins and ends at IDX = 0. -/
theorem framesAroundCleanGarbageAreRecovered : Obligations.FramesAroundCleanGarbageAreRecovered := by
  unfold Obligations.FramesAroundCleanGarbageAreRecovered
  intro c d p q g s k hs hr h0 hg
  have hd : drain (frameBytes (encodeFrame c p) ++ g ++ frameBytes (encodeFrame d q)) k =
      ({ k with buf := encodeFrame d q }, (deliveredAction c p).toList ++ g.map (fun b => .diag (.syncError b))
        ++ (deliveredAction d q).toList) := by
    have hc : drain (frameBytes (encodeFrame c p)) k = _ := drain_frameBytes rfl h0
    have hgarbage : drain g { k with buf := encodeFrame c p } = _ := drain_discard hg h0
    have hdq : drain (frameBytes (encodeFrame d q)) { k with buf := encodeFrame c p } = _ := drain_frameBytes rfl h0
    rw [drain_append, drain_append, hc, hgarbage, hdq, frameActions_encodeFrame, frameActions_encodeFrame]
  rw [exec_tickMaster hs hr hd, ← List.append_assoc, ← List.append_assoc]

/-! ## One lost byte (R129) -/

/-- A candidate frame that passes the preamble test and fails the checksum test. -/
def Frame.BadSum (f : Frame) : Prop :=
  f.preamble = preambleByte ∧ frameSum f ≠ f.cksum

/-- What FRAMEDONE tells the diagnostic sink of a candidate frame with a bad checksum (R158). -/
def badSumReport (f : Frame) : Action :=
  .diag (.checksumMismatch f (frameSum f) f.cksum)

/-- Candidate frames with bad checksums, one after the other, give one diagnostic each. -/
theorem drain_badSums {fs : List Frame} (hfs : ∀ f ∈ fs, Frame.BadSum f) {k : Block} (h : k.idx = 0) :
    ∃ buf, drain (fs.flatMap frameBytes) k = ({ k with buf := buf }, fs.map badSumReport) := by
  induction fs generalizing k with
  | nil => exact ⟨k.buf, rfl⟩
  | cons f fs ih =>
    obtain ⟨⟨hpre, hsum⟩, hfs⟩ := List.forall_mem_cons.1 hfs
    obtain ⟨buf, hd⟩ := ih hfs (k := { k with buf := f }) h
    refine ⟨buf, ?_⟩
    rw [List.flatMap_cons, drain_append, drain_frameBytes hpre h, hd, frameActions_badSum hpre hsum]
    rfl

/-- The press of 0x0069 without its first byte, and the first byte of the release. -/
def slippedPress : Frame := ⟨0x69#8, 0x00#8, 0x01#8, 0xD3#8, 0x69#8⟩

/-- The release of 0x0069 without its first byte, and the first byte of the next press. -/
def slippedRelease : Frame := ⟨0x69#8, 0x00#8, 0x00#8, 0xD2#8, 0x69#8⟩

/-- The candidate frames of n + 1 cycles one byte out of step. The last release is left without its fifth byte. -/
def slippedFrames : Nat → List Frame
  | 0 => [slippedPress]
  | n + 1 => slippedPress :: slippedRelease :: slippedFrames n

/-- n + 1 cycles are the first byte, the candidate frames out of step, and four bytes over. -/
theorem cycles_eq_slippedFrames (n : Nat) :
    (List.replicate (n + 1) (frameBytes (encodeFrame 0x0069#16 true) ++ frameBytes (encodeFrame 0x0069#16 false))).flatten =
      0x69#8 :: ((slippedFrames n).flatMap frameBytes ++ [0x69#8, 0x00#8, 0x00#8, 0xD2#8]) := by
  induction n with
  | zero => decide
  | succ n ih =>
    rw [List.replicate_succ, List.flatten_cons, ih]
    rfl

theorem slippedFrames_length (n : Nat) : (slippedFrames n).length = 2 * n + 1 := by
  induction n with
  | zero => rfl
  | succ n ih => simp [slippedFrames, ih]; omega

theorem slippedFrames_badSum (n : Nat) : ∀ f ∈ slippedFrames n, Frame.BadSum f := by
  have hpress : Frame.BadSum slippedPress := ⟨rfl, by decide⟩
  have hrelease : Frame.BadSum slippedRelease := ⟨rfl, by decide⟩
  induction n with
  | zero => simpa [slippedFrames] using hpress
  | succ n ih => simpa [slippedFrames, hpress, hrelease] using ih

/-- Settles O48: the candidate frames out of step all have bad checksums, and the four bytes over emit nothing. -/
theorem lostByteCanDesynchronizeWithoutEnd : Obligations.LostByteCanDesynchronizeWithoutEnd := by
  unfold Obligations.LostByteCanDesynchronizeWithoutEnd
  intro n s k hs hr h0
  cases n with
  | zero => exact ⟨_, [], exec_tickMaster hs hr rfl, rfl, rfl, by simp⟩
  | succ n =>
    obtain ⟨buf, hd⟩ := drain_badSums (slippedFrames_badSum n) h0
    have hover : drain [0x69#8, 0x00#8, 0x00#8, 0xD2#8] { k with buf := buf } = _ := drain_preamble_three _ _ _ h0
    rw [cycles_eq_slippedFrames, List.drop_one, List.tail_cons]
    refine ⟨_, _, exec_tickMaster hs hr (drain_append _ _ k), rfl, ?_⟩
    rw [hd, hover, List.append_nil]
    refine ⟨?_, fun a ha => ?_⟩
    · rw [List.length_map, slippedFrames_length]
      omega
    · obtain ⟨f, -, rfl⟩ := List.mem_map.1 ha
      exact ⟨f, _, _, rfl⟩

/-! ## No timeout (R126) -/

/-- A Tick at a Master that finds nothing in RXQ changes nothing (R151). -/
theorem tick_master_empty {s : State} {k : Block} (hs : s.block = some k) (hr : k.role = .master) (hq : s.rxq = []) :
    tick s = .next s := by
  rw [tick_master hs hr, hq, drain_nil, State.emit_nil, State.withBlock_of_eq (s := s.emptied) hs, State.emptied, ← hq]

theorem arrivals_cons (x : Input) (xs : List Input) : arrivals (x :: xs) = arrivals [x] ++ arrivals xs :=
  List.flatMap_append (xs := [x])

/-- One input of a session that brings no byte uses up its line of the schedule and does nothing else. -/
theorem step_master_silent {s : State} {k : Block} {x : Input} {rest : List Input} (hs : s.block = some k) (hr : k.role = .master)
    (hq : s.rxq = []) (hx : s.inputs = x :: rest) (hsess : x.inSession = true) (hno : arrivals [x] = []) :
    step s = .next (s.schedule rest) := by
  cases x with
  | arrive bs =>
    obtain rfl : bs = [] := by simpa [arrivals] using hno
    rw [step_arrive hx, State.receive_nil]
  | event e =>
    cases e with
    | tick => exact (step_tick hs hx).trans (tick_master_empty (s := s.schedule rest) hs hr hq)
    | keyEvt c p => exact (step_keyEvt hs hx).trans (keyEvt_master (s := s.schedule rest) hs hr c p)
    | reset => cases hsess
  | byte | frame | apply => cases hsess

/-- Settles O49, by induction on the schedule: each input does nothing (`step_master_silent`). -/
theorem partialFramePersistsWithoutTimeout : Obligations.PartialFramePersistsWithoutTimeout := by
  unfold Obligations.PartialFramePersistsWithoutTimeout
  intro xs s k hs hr hq hsess hno
  induction xs with
  | nil => exact runSteps_zero _
  | cons x xs ih =>
    obtain ⟨hx, hxs⟩ := List.forall_mem_cons.1 hsess
    obtain ⟨hnox, hnoxs⟩ := List.append_eq_nil_iff.1 ((arrivals_cons x xs).symm.trans hno)
    have hstep := step_master_silent (s := { s with inputs := x :: xs }) hs hr hq rfl hx hnox
    exact (runSteps_succ hstep xs.length).trans (ih hxs hnoxs)

end Sys2Proof.Machine
end

section
/-! PROOFS of the family 43_classifier.md: CLASSIFY by the ranges (R140) and by the comparator's bit tests (R144). -/

namespace Sys2Proof.Machine

/-! ## The classes as ranges (R140, R141) -/

theorem classify_eq_standardKey_iff {c : Keycode} : classify c = .standardKey ↔ 1 ≤ c.toNat ∧ c.toNat ≤ 254 := by
  rw [classify_eq]
  split_ifs with hstd <;> simp [hstd]

theorem classify_eq_remoteMacro_iff {c : Keycode} {n : Nat} :
    classify c = .remoteMacro n ↔ 0xFFF0 ≤ c.toNat ∧ n = c.toNat - 0xFFF0 + 1 := by
  rw [classify_eq]
  split_ifs with hstd hmac
  · rw [false_iff]
    omega
  · rw [KeyClass.remoteMacro.injEq, eq_comm, and_iff_right hmac]
  · simp [hmac]

theorem classify_eq_invalid_iff {c : Keycode} :
    classify c = .invalid ↔ ¬ (1 ≤ c.toNat ∧ c.toNat ≤ 254) ∧ ¬ 0xFFF0 ≤ c.toNat := by
  rw [classify_eq]
  split_ifs with hstd hmac
  · simp [hstd]
  · simp [hmac]
  · simp [hstd, hmac]

theorem exec_classify {s : State} {k : Block} (hs : s.block = some k) {c : Keycode} {r : KeyClass} (h : classify c = r) :
    exec (.classify c) s = .next { s with returned := s.returned ++ [.keyClass r] } :=
  h ▸ returning_some hs _

/-- Settles O15. -/
theorem classifyReturnsTheRange : Obligations.ClassifyReturnsTheRange := by
  unfold Obligations.ClassifyReturnsTheRange
  intro c s k hs
  refine ⟨fun hlo hhi => exec_classify hs (classify_eq_standardKey_iff.2 ⟨hlo, hhi⟩),
    fun hmac => exec_classify hs (classify_eq_remoteMacro_iff.2 ⟨hmac, rfl⟩),
    fun hinv => exec_classify hs (classify_eq_invalid_iff.2 ?_)⟩
  omega

/-! ## The ranges as bit tests (R144) -/

/-- The standard keys' range, by its high byte and its low byte. -/
theorem standardRange_iff_bytes (c : Keycode) :
    (1 ≤ c.toNat ∧ c.toNat ≤ 254) ↔ keycodeHi c = 0x00#8 ∧ keycodeLo c ≠ 0x00#8 ∧ keycodeLo c ≠ 0xFF#8 := by
  simp only [ne_eq, ← BitVec.toNat_inj, keycodeHi_toNat, keycodeLo_toNat, BitVec.toNat_ofNat]
  omega

/-- The macro band, by its upper twelve bits: it is the last 16 codes of the keycode space. -/
theorem macroBand_iff_bits (c : Keycode) : 0xFFF0 ≤ c.toNat ↔ c.extractLsb' 4 12 = 0xFFF#12 := by
  have := c.isLt
  rw [← BitVec.toNat_inj, BitVec.extractLsb'_toNat, Nat.shiftRight_eq_div_pow, BitVec.toNat_ofNat]
  omega

/-- The band starts at a multiple of 16, so an offset in it is the low nibble. -/
theorem sub_bandStart_eq_low_nibble {c : Keycode} (h : 0xFFF0 ≤ c.toNat) :
    c.toNat - 0xFFF0 = (c.extractLsb' 0 4).toNat := by
  have := c.isLt
  rw [BitVec.extractLsb'_toNat, Nat.shiftRight_zero]
  omega

/-- Settles O16: each class is a range (R140), and each range is its bit test. -/
theorem classifyEqualsTheBitTests : Obligations.ClassifyEqualsTheBitTests := by
  unfold Obligations.ClassifyEqualsTheBitTests
  intro c
  have hstd := standardRange_iff_bytes c
  have hmac := macroBand_iff_bits c
  refine ⟨classify_eq_standardKey_iff.trans hstd, fun n => ?_, classify_eq_invalid_iff.trans (and_congr hstd.not hmac.not)⟩
  rw [classify_eq_remoteMacro_iff, ← hmac]
  exact and_congr_right fun h => by rw [sub_bandStart_eq_low_nibble h]

end Sys2Proof.Machine
end

section
/-! PROOFS of the family 44_dispatcher.md: the events Tick and KeyEvt in the two roles (R150 to R156), what each role may emit (R150),
and how much (R163). -/

namespace Sys2Proof.Machine

/-! ## What the receiver's gate, a Tick and a KeyEvt can have answered -/

/-- The state in which a Master with block k ends a Tick (R151). -/
def State.drained (s : State) (k : Block) : State :=
  (s.emptied.withBlock (drain s.rxq k).1).emit (drain s.rxq k).2

section
variable {s t : State} {k : Block} (hs : s.block = some k)
include hs

theorem onReceiver_cases {f : Block → Block × List Action} (e : onReceiver s f = .next t) :
    (k.role = .master ∧ t = (s.withBlock (f k).1).emit (f k).2) ∨ (k.role = .slave ∧ t = s) := by
  cases hr : k.role with
  | master =>
    rw [onReceiver_master hs hr] at e
    cases e
    exact .inl ⟨rfl, rfl⟩
  | slave =>
    rw [onReceiver_slave hs hr] at e
    cases e
    exact .inr ⟨rfl, rfl⟩

theorem tick_eq_drained (hr : k.role = .master) : tick s = .next (s.drained k) :=
  tick_master hs hr

theorem tick_cases (e : tick s = .next t) : (k.role = .master ∧ t = s.drained k) ∨ (k.role = .slave ∧ t = s) := by
  cases hr : k.role with
  | master =>
    rw [tick_eq_drained hs hr] at e
    cases e
    exact .inl ⟨rfl, rfl⟩
  | slave =>
    rw [tick_slave hs hr] at e
    cases e
    exact .inr ⟨rfl, rfl⟩

theorem keyEvt_slave_deliverable (hr : k.role = .slave) {c : Keycode} (hc : classify c ≠ .invalid) (p : Bool) :
    keyEvt c p s = .next (s.emit (txFrame (encodeFrame c p))) := by
  rw [keyEvt_slave hs hr, if_pos ((isDeliverable_iff c).2 hc)]

theorem keyEvt_slave_invalid (hr : k.role = .slave) {c : Keycode} (hc : classify c = .invalid) (p : Bool) :
    keyEvt c p s = .next s := by
  rw [keyEvt_slave hs hr, if_neg fun hd => (isDeliverable_iff c).1 hd hc, State.emit_nil]

theorem keyEvt_cases {c : Keycode} {p : Bool} (e : keyEvt c p s = .next t) :
    (k.role = .slave ∧ t = s.emit (txFrame (encodeFrame c p))) ∨ t = s := by
  cases hr : k.role with
  | master =>
    rw [keyEvt_master hs hr] at e
    cases e
    exact .inr rfl
  | slave =>
    by_cases hc : classify c = .invalid
    · rw [keyEvt_slave_invalid hs hr hc] at e
      cases e
      exact .inr rfl
    · rw [keyEvt_slave_deliverable hs hr hc] at e
      cases e
      exact .inl ⟨rfl, rfl⟩

end

/-! ## Tick and KeyEvt in the two roles (R151 to R154) -/

/-- Settles O30. TICK.SLAVE has the one meaning of a Tick, which reads ROLE. -/
theorem slaveTickDoesNothing : Obligations.SlaveTickDoesNothing :=
  fun _ _ hs hr => tick_slave hs hr

/-- Settles O31. KEYEVT.MASTER has the one meaning of a KeyEvt, which reads ROLE. -/
theorem masterIgnoresLocalKeyEvents : Obligations.MasterIgnoresLocalKeyEvents :=
  fun c p _ _ hs hr => keyEvt_master hs hr c p

/-- Settles O32: the five actions are `txFrame` of the encoded frame, written out. -/
theorem slaveSendsDeliverableKeycodes : Obligations.SlaveSendsDeliverableKeycodes := by
  unfold Obligations.SlaveSendsDeliverableKeycodes
  intro c p s k hs hr
  refine ⟨fun hc => keyEvt_slave_deliverable hs hr ?_ p, fun hc => keyEvt_slave_invalid hs hr hc p⟩
  obtain hstd | ⟨n, hmac⟩ := hc
  · rw [hstd]; nofun
  · rw [hmac]; nofun

theorem drain_singleton (b : Byte) (k : Block) : drain [b] k = rxByte b k := by
  rw [drain_cons, drain_nil, List.append_nil]

/-- The Tick of a Master with bytes in RXQ is RXBYTE of the head, and then the Tick again (R151): the loop over [b] ++ rest. -/
theorem tick_master_cons {s : State} {k : Block} (hs : s.block = some k) (hr : k.role = .master) {b : Byte} {rest : List Byte}
    (hq : s.rxq = b :: rest) :
    ∃ t, exec (.rxbyte b) { s with rxq := rest } = .next t ∧ exec .tickMaster s = exec .tickMaster t := by
  refine ⟨_, exec_rxbyte_master (s := { s with rxq := rest }) hs hr rfl, ?_⟩
  calc exec .tickMaster s
      = exec .tickMaster { s with rxq := [b] ++ rest } := by rw [List.singleton_append, ← hq]
    _ = _ := exec_tickMaster_append hs hr (drain_singleton b k) rest

/-- Settles O33: the empty queue, one turn of the loop (`tick_master_cons`), and where it ends (`State.drained`). -/
theorem masterTickDrainsTheQueue : Obligations.MasterTickDrainsTheQueue := by
  unfold Obligations.MasterTickDrainsTheQueue
  intro s k hs hr
  exact ⟨tick_master_empty hs hr, fun b rest hq => tick_master_cons hs hr hq, _, tick_eq_drained hs hr, rfl, rfl, rfl, rfl⟩

/-- Settles O34: the rows of bytes are RXBYTE of them, and the rows of frames go through the receiver's gate too. -/
theorem otherRoleIsIgnoredNotTrapped : Obligations.OtherRoleIsIgnoredNotTrapped := by
  unfold Obligations.OtherRoleIsIgnoredNotTrapped
  intro s k hs
  refine ⟨fun hr => ⟨fun j b => ?bytes, fun f => ?frames, onReceiver_slave hs hr _, tick_slave hs hr⟩,
    fun hr c p => keyEvt_master hs hr c p, rfl, fun _ _ => rfl⟩
  case bytes =>
    obtain ⟨hb, -, -⟩ := rowOfByte_eq_iff.1 (rfl : rowOfByte j b = _)
    exact ⟨(exec_of_byteOfRow hb s).trans (onReceiver_slave hs hr _), onReceiver_slave hs hr _⟩
  case frames =>
    obtain ⟨hf, -, hgen⟩ := rowOfFrame_spec f
    exact (exec_of_frameOfRow hf hgen s).trans (onReceiver_slave hs hr _)

/-! ## What each role may emit and change (R150) -/

theorem isTx_of_mem_frameActions {f : Frame} {a : Action} (h : a ∈ frameActions f) : a.isTx = false := by
  obtain h' | ⟨hpre, hsum⟩ | ⟨lo, hi, p, rfl⟩ := frame_cases f
  · rw [frameActions_badPreamble h', List.mem_singleton] at h
    rw [h, Action.isTx]
  · rw [frameActions_badSum hpre hsum, List.mem_singleton] at h
    rw [h, Action.isTx]
  · rw [frameActions_sealed] at h
    split at h
    · split at h <;> rw [List.mem_singleton.1 h, Action.isTx]
    · rw [List.mem_singleton.1 h, Action.isTx]
    · cases h

theorem isTx_of_mem_rxByte {b : Byte} {k : Block} {a : Action} (h : a ∈ (rxByte b k).2) : a.isTx = false := by
  obtain ⟨-, -, e⟩ | ⟨-, -, e⟩ | ⟨-, -, e⟩ | ⟨-, e⟩ := rxByte_cases b k <;> rw [e] at h
  · rw [List.mem_singleton.1 h, Action.isTx]
  · cases h
  · cases h
  · exact isTx_of_mem_frameActions h

theorem isTx_of_mem_drain {xs : List Byte} {k : Block} {a : Action} (h : a ∈ (drain xs k).2) : a.isTx = false := by
  induction xs generalizing k with
  | nil => cases h
  | cons b xs ih =>
    obtain h | h := List.mem_append.1 h
    · exact isTx_of_mem_rxByte h
    · exact ih h

theorem isTx_of_mem_txFrame {f : Frame} {a : Action} (h : a ∈ txFrame f) : a.isTx = true := by
  obtain ⟨b, -, rfl⟩ := List.mem_map.1 h
  rfl

/-- What R150 lets a block of either role emit and change on the way from s to t. -/
def KeepsToItsSide (k : Block) (s t : State) : Prop :=
  ∃ as : List Action, t.trace = s.trace ++ as
    ∧ (k.role = .master → ∀ a ∈ as, a.isTx = false)
    ∧ (k.role = .slave → (∀ a ∈ as, a.isTx = true) ∧ t.rxq = s.rxq ∧ t.block = s.block)

theorem keepsToItsSide_silent {k : Block} {s t : State} (htrace : t.trace = s.trace) (hrxq : t.rxq = s.rxq)
    (hblock : t.block = s.block) : KeepsToItsSide k s t :=
  ⟨[], by rw [htrace, List.append_nil], fun _ => nofun, fun _ => ⟨nofun, hrxq, hblock⟩⟩

theorem keepsToItsSide_master {k : Block} {s t : State} {as : List Action} (hr : k.role = .master)
    (htrace : t.trace = s.trace ++ as) (has : ∀ a ∈ as, a.isTx = false) : KeepsToItsSide k s t :=
  ⟨as, htrace, fun _ => has, fun hslave => nomatch hr.symm.trans hslave⟩

theorem keepsToItsSide_slave {k : Block} {s t : State} {as : List Action} (hr : k.role = .slave)
    (htrace : t.trace = s.trace ++ as) (has : ∀ a ∈ as, a.isTx = true) (hrxq : t.rxq = s.rxq) (hblock : t.block = s.block) :
    KeepsToItsSide k s t :=
  ⟨as, htrace, fun hmaster => (nomatch hr.symm.trans hmaster), fun _ => ⟨has, hrxq, hblock⟩⟩

section
variable {s t : State} {k : Block} (hs : s.block = some k)
include hs

theorem onReceiver_keepsToItsSide {f : Block → Block × List Action} (hf : ∀ a ∈ (f k).2, a.isTx = false)
    (e : onReceiver s f = .next t) : KeepsToItsSide k s t := by
  obtain ⟨hr, rfl⟩ | ⟨-, rfl⟩ := onReceiver_cases hs e
  · exact keepsToItsSide_master hr rfl hf
  · exact keepsToItsSide_silent rfl rfl rfl

theorem returning_keepsToItsSide {v : Value} (e : returning s v = .next t) : KeepsToItsSide k s t := by
  rw [returning_some hs] at e
  cases e
  exact keepsToItsSide_silent rfl rfl rfl

theorem tick_keepsToItsSide (e : tick s = .next t) : KeepsToItsSide k s t := by
  obtain ⟨hr, rfl⟩ | ⟨-, rfl⟩ := tick_cases hs e
  · exact keepsToItsSide_master hr rfl fun _ => isTx_of_mem_drain
  · exact keepsToItsSide_silent rfl rfl rfl

theorem keyEvt_keepsToItsSide {c : Keycode} {p : Bool} (e : keyEvt c p s = .next t) : KeepsToItsSide k s t := by
  obtain ⟨hr, rfl⟩ | rfl := keyEvt_cases hs e
  · exact keepsToItsSide_slave hr rfl (fun _ => isTx_of_mem_txFrame) rfl rfl
  · exact keepsToItsSide_silent rfl rfl rfl

theorem byteRow_keepsToItsSide {i : Instr} {b : Byte} (hb : byteOfRow i = some b) (e : exec i s = .next t) :
    KeepsToItsSide k s t :=
  onReceiver_keepsToItsSide hs (fun _ => isTx_of_mem_rxByte) ((exec_of_byteOfRow hb s).symm.trans e)

theorem frameRow_keepsToItsSide {i : Instr} {f : Frame} (e : exec i s = .next t) (hf : frameOfRow i = some f)
    (hgen : ∀ lo hi p c, i ≠ .frame lo hi p c) : KeepsToItsSide k s t :=
  onReceiver_keepsToItsSide hs (fun _ => isTx_of_mem_frameActions) ((exec_of_frameOfRow hf hgen s).symm.trans e)

end

/-- Settles O35: a receiver's row emits what RXBYTE or FRAMEDONE emits, and a Slave's only output is KEYEVT's frame. -/
theorem rolesKeepToTheirSideOfTheLink : Obligations.RolesKeepToTheirSideOfTheLink := by
  unfold Obligations.RolesKeepToTheirSideOfTheLink
  intro i s t k hs hi e
  cases i with
  | frame | checksum8 | encode | decode | classify => exact returning_keepsToItsSide hs e
  | frameStdPress | frameStdRelease | frameMacro | frameInvalidKc | frameBadsum | frameBadpre =>
    exact frameRow_keepsToItsSide hs e rfl nofun
  | byteSof | byteHuntDiscard | byteData | byteLast => exact byteRow_keepsToItsSide hs rfl e
  | rxbyte => exact onReceiver_keepsToItsSide hs (fun _ => isTx_of_mem_rxByte) e
  | framedone => exact onReceiver_keepsToItsSide hs (fun _ => isTx_of_mem_frameActions) e
  | tickMaster | tickSlave => exact tick_keepsToItsSide hs e
  | keyevtSlave | keyevtMaster => exact keyEvt_keepsToItsSide hs e
  | reset r => exact absurd rfl (hi r)

/-! ## How much an operation may emit (R163) -/

theorem rxByte_length (b : Byte) (k : Block) : (rxByte b k).2.length ≤ 1 := by
  obtain ⟨-, -, e⟩ | ⟨-, -, e⟩ | ⟨-, -, e⟩ | ⟨-, e⟩ := rxByte_cases b k <;> rw [e]
  · exact le_rfl
  · exact Nat.zero_le 1
  · exact Nat.zero_le 1
  · exact frameActions_length _

theorem drain_length (xs : List Byte) (k : Block) : (drain xs k).2.length ≤ xs.length := by
  induction xs generalizing k with
  | nil => exact le_rfl
  | cons b xs ih =>
    have hb := rxByte_length b k
    have hxs := ih (rxByte b k).1
    rw [drain_cons, List.length_append, List.length_cons]
    omega

/-- A byte moves IDX on by one at most, and a host action costs the five bytes that IDX then gives up. -/
theorem rxByte_hostActions (b : Byte) (k : Block) :
    5 * (rxByte b k).2.countP Action.isHost + (rxByte b k).1.idx.val ≤ k.idx.val + 1 := by
  have hsucc : ∀ i : Idx, (i + 1).val ≤ i.val + 1 := by decide
  obtain ⟨-, -, e⟩ | ⟨h0, -, e⟩ | ⟨-, -, e⟩ | ⟨h4, e⟩ := rxByte_cases b k <;> rw [e]
  · simp [Action.isHost]
  · simp [h0]
  · simpa using hsucc k.idx
  · have hone := (List.countP_le_length (p := Action.isHost)).trans (frameActions_length (k.store b).buf)
    rw [h4]
    exact Nat.mul_le_mul_left 5 hone

theorem drain_hostActions (xs : List Byte) (k : Block) :
    5 * (drain xs k).2.countP Action.isHost + (drain xs k).1.idx.val ≤ k.idx.val + xs.length := by
  induction xs generalizing k with
  | nil => simp
  | cons b xs ih =>
    have hb := rxByte_hostActions b k
    have hxs := ih (rxByte b k).1
    simp only [drain_cons, List.countP_append, List.length_cons]
    omega

/-- The receiver's gate adds no action to those of the transition it guards. -/
theorem onReceiver_length {s t : State} {k : Block} (hs : s.block = some k) {f : Block → Block × List Action} {n : Nat}
    (hf : (f k).2.length ≤ n) (e : onReceiver s f = .next t) : ∃ as : List Action, t.trace = s.trace ++ as ∧ as.length ≤ n := by
  obtain ⟨-, rfl⟩ | ⟨-, rfl⟩ := onReceiver_cases hs e
  · exact ⟨_, rfl, hf⟩
  · exact ⟨[], (List.append_nil _).symm, Nat.zero_le n⟩

/-- Settles O41: one action a byte at most (`drain_length`), and IDX counts the bytes that wait for a host action
(`drain_hostActions`). -/
theorem outputsAreBounded : Obligations.OutputsAreBounded := by
  unfold Obligations.OutputsAreBounded
  intro s k hs
  refine ⟨fun b t e => onReceiver_length hs (rxByte_length b k) e, fun t e => onReceiver_length hs (frameActions_length k.buf) e,
    fun t e => ?tick, fun c p t e => ?keyEvt⟩
  case tick =>
    obtain ⟨-, rfl⟩ | ⟨-, rfl⟩ := tick_cases hs e
    · exact ⟨_, rfl, drain_length s.rxq k, (Nat.le_add_right _ _).trans (drain_hostActions s.rxq k)⟩
    · exact ⟨[], (List.append_nil _).symm, Nat.zero_le _, Nat.zero_le _⟩
  case keyEvt =>
    obtain ⟨-, rfl⟩ | rfl := keyEvt_cases hs e
    · exact ⟨_, rfl, .inr ⟨rfl, fun _ => isTx_of_mem_txFrame⟩⟩
    · exact ⟨[], (List.append_nil _).symm, .inl rfl⟩

/-! ## Schedules of one stream (R156) -/

theorem tickAfterLastArrival_cons {x : Input} {xs : List Input} (h : tickAfterLastArrival (x :: xs)) :
    tickAfterLastArrival xs ∨ (x = .event .tick ∧ arrivals xs = []) := by
  obtain ⟨pre, post, hsplit, hpost⟩ := h
  cases pre with
  | nil =>
    obtain ⟨rfl, rfl⟩ := List.cons.inj hsplit
    exact .inr ⟨rfl, hpost⟩
  | cons _ pre => exact .inl ⟨pre, post, (List.cons.inj hsplit).2, hpost⟩

theorem step_schedule_arrive (s : State) (bs : List Byte) (rest : List Input) :
    step (s.schedule (.arrive bs :: rest)) = .next ((s.receive bs).schedule rest) :=
  step_arrive (s := s.schedule (.arrive bs :: rest)) rfl

section
variable {s : State} {k : Block} (hs : s.block = some k) (hr : k.role = .master)
include hs hr

/-- A Tick before more bytes arrive changes nothing in what a Tick after their arrival leads to (R127). -/
theorem tick_drained_receive (ys : List Byte) : tick ((s.drained k).receive ys) = tick (s.receive ys) :=
  (exec_tickMaster_append hs hr rfl ys).symm

theorem step_schedule_tick_master (rest : List Input) :
    step (s.schedule (.event .tick :: rest)) = .next ((s.drained k).schedule rest) :=
  (step_tick (s := s.schedule (.event .tick :: rest)) hs rfl).trans (tick_eq_drained (s := s.schedule rest) hs hr)

theorem step_schedule_keyEvt_master (c : Keycode) (p : Bool) (rest : List Input) :
    step (s.schedule (.event (.keyEvt c p) :: rest)) = .next (s.schedule rest) :=
  (step_keyEvt (s := s.schedule (.event (.keyEvt c p) :: rest)) hs rfl).trans (keyEvt_master (s := s.schedule rest) hs hr c p)

/-- With nothing received and nothing to arrive, a Master's session does what one more Tick does: nothing. -/
theorem runSteps_silent_session {xs : List Input} (hq : s.rxq = []) (hsess : ∀ x ∈ xs, x.inSession = true)
    (hno : arrivals xs = []) : runSteps xs.length (s.schedule xs) = tick ((s.schedule []).receive (arrivals xs)) := by
  rw [hno, State.receive_nil, tick_master_empty (s := s.schedule []) hs hr hq]
  exact partialFramePersistsWithoutTimeout xs s k hs hr hq hsess hno

end

/-- A session at a Master with a Tick after its last arrival is one Tick over all its bytes. -/
theorem runSteps_session {xs : List Input} {s : State} {k : Block} (hs : s.block = some k) (hr : k.role = .master)
    (hsess : ∀ x ∈ xs, x.inSession = true) (htick : tickAfterLastArrival xs) :
    runSteps xs.length (s.schedule xs) = tick ((s.schedule []).receive (arrivals xs)) := by
  induction xs generalizing s k with
  | nil =>
    obtain ⟨pre, post, hsplit, -⟩ := htick
    cases pre <;> cases hsplit
  | cons x xs ih =>
    obtain ⟨hx, hxs⟩ := List.forall_mem_cons.1 hsess
    have hrest := tickAfterLastArrival_cons htick
    cases x with
    | arrive bs =>
      have hlater := hrest.resolve_right fun h => nomatch h.1
      rw [List.length_cons, runSteps_succ (step_schedule_arrive s bs xs), ih (s := s.receive bs) hs hr hxs hlater]
      exact congrArg tick (State.receive_receive (s.schedule []) bs (arrivals xs))
    | event e =>
      cases e with
      | reset => cases hx
      | keyEvt c p =>
        have hlater := hrest.resolve_right fun h => nomatch h.1
        rw [List.length_cons, runSteps_succ (step_schedule_keyEvt_master hs hr c p xs), ih hs hr hxs hlater]
        rfl
      | tick =>
        have hrole := (drain_role s.rxq k).trans hr
        rw [List.length_cons, runSteps_succ (step_schedule_tick_master hs hr xs)]
        refine Eq.trans ?_ (tick_drained_receive (s := s.schedule []) hs hr (arrivals xs))
        obtain hlater | ⟨-, hno⟩ := hrest
        · exact ih (s := s.drained k) rfl hrole hxs hlater
        · exact runSteps_silent_session (s := s.drained k) rfl hrole rfl hxs hno
    | byte | frame | apply => cases hx

/-- Settles O45: either schedule is one Tick over the same bytes (`runSteps_session`). -/
theorem tickScheduleIsUnobservable : Obligations.TickScheduleIsUnobservable := by
  unfold Obligations.TickScheduleIsUnobservable
  intro xs ys s k hs hr hxs hys harr htx hty
  have hx := runSteps_session hs hr hxs htx
  have hy := runSteps_session hs hr hys hty
  rw [← harr] at hy
  have hnext := tick_master (s := (s.schedule []).receive (arrivals xs)) hs hr
  exact ⟨_, hx.trans hnext, hy.trans hnext⟩

end Sys2Proof.Machine
end

section
/-! PROOFS of the family 60_exceptions.md: nothing stops the block (R189), an error leaves it hunting (R187), only RESET changes ROLE
(R196), and the diagnostic sink is transparent (R203). -/

namespace Sys2Proof.Machine

/-! ## Nothing stops the block (R189) -/

/-- Settles O4: RESET answers in every state, and any other instruction has an `Effect`, which carries the next block. -/
theorem everyOperationCompletes : Obligations.EveryOperationCompletes := by
  unfold Obligations.EveryOperationCompletes
  intro i s k hs
  by_cases hi : ∃ r, i = .reset r
  · obtain ⟨r, rfl⟩ := hi
    exact ⟨_, _, exec_reset r s, rfl⟩
  · obtain ⟨e, he⟩ := exec_effect i (not_exists.1 hi) k s.rxq
    exact ⟨s.after e, e.block, he s hs rfl, rfl⟩

/-- The schedule cannot stop the block in one step: it idles, takes an arrival, or runs an operation to completion. -/
theorem step_completes {s : State} {k : Block} (hs : s.block = some k) : ∃ t l, step s = .next t ∧ t.block = some l := by
  rcases hx : s.inputs with _ | ⟨x, rest⟩
  · exact ⟨s, k, step_idle hx, hs⟩
  · by_cases ha : ∃ bs, x = .arrive bs
    · obtain ⟨bs, rfl⟩ := ha
      exact ⟨_, k, step_arrive hx, hs⟩
    · obtain ⟨i, hi⟩ := instrOf_some k x (not_exists.1 ha)
      rw [step_instr hx (hs ▸ hi)]
      exact everyOperationCompletes i (s.schedule rest) k hs

/-- Settles O5, by induction on the number of steps. -/
theorem noRunEverStops : Obligations.NoRunEverStops := by
  unfold Obligations.NoRunEverStops
  intro n
  induction n with
  | zero => exact fun s k hs => ⟨s, k, runSteps_zero s, hs⟩
  | succ n ih =>
    intro s k hs
    obtain ⟨s₁, k₁, e, hs₁⟩ := step_completes hs
    rw [runSteps_succ e]
    exact ih s₁ k₁ hs₁

/-! ## An error leaves the receiver hunting (R187) -/

/-- A byte on which RXBYTE acts was discarded at IDX = 0 or completed a frame, so the receiver hunts after it. -/
theorem rxByte_idx_of_actions {b : Byte} {k : Block} (h : (rxByte b k).2 ≠ []) : (rxByte b k).1.idx = 0 := by
  obtain ⟨h0, -, e⟩ | ⟨-, -, e⟩ | ⟨-, -, e⟩ | ⟨-, e⟩ := rxByte_cases b k <;> rw [e] at h ⊢
  · exact h0
  · exact absurd rfl h
  · exact absurd rfl h
  · exact Block.goto_idx _ _

/-- Settles O43: the diagnostic is an action of RXBYTE, so IDX is 0 (`rxByte_idx_of_actions`). -/
theorem errorLeavesTheReceiverHunting : Obligations.ErrorLeavesTheReceiverHunting := by
  unfold Obligations.ErrorLeavesTheReceiverHunting
  intro b s t k d hs hr e htrace
  rw [exec_rxbyte_master hs hr rfl] at e
  cases e
  have hacts : (rxByte b k).2 = [.diag d] := List.append_cancel_left htrace
  exact ⟨_, rfl, rxByte_idx_of_actions (hacts ▸ List.cons_ne_nil _ _), (rxByte_role b k).trans hr⟩

/-! ## Only RESET changes ROLE (R196, R24) -/

/-- The block has been RESET and its ROLE is r. -/
def State.HasRole (s : State) (r : Role) : Prop :=
  ∃ k, s.block = some k ∧ k.role = r

section
variable {s t : State} {k : Block} (hs : s.block = some k)
include hs

theorem onReceiver_role {f : Block → Block × List Action} (hf : (f k).1.role = k.role) (e : onReceiver s f = .next t) :
    t.HasRole k.role := by
  obtain ⟨-, rfl⟩ | ⟨-, rfl⟩ := onReceiver_cases hs e
  · exact ⟨_, rfl, hf⟩
  · exact ⟨k, hs, rfl⟩

theorem returning_role {v : Value} (e : returning s v = .next t) : t.HasRole k.role := by
  rw [returning_some hs] at e
  cases e
  exact ⟨k, hs, rfl⟩

theorem tick_role (e : tick s = .next t) : t.HasRole k.role := by
  obtain ⟨-, rfl⟩ | ⟨-, rfl⟩ := tick_cases hs e
  · exact ⟨_, rfl, drain_role s.rxq k⟩
  · exact ⟨k, hs, rfl⟩

theorem keyEvt_role {c : Keycode} {p : Bool} (e : keyEvt c p s = .next t) : t.HasRole k.role := by
  obtain ⟨-, rfl⟩ | rfl := keyEvt_cases hs e <;> exact ⟨k, hs, rfl⟩

theorem byteRow_role {i : Instr} {b : Byte} (hb : byteOfRow i = some b) (e : exec i s = .next t) : t.HasRole k.role :=
  onReceiver_role hs (rxByte_role b k) ((exec_of_byteOfRow hb s).symm.trans e)

theorem frameRow_role {as : List Action} (e : onReceiver s (completes as) = .next t) : t.HasRole k.role :=
  onReceiver_role hs rfl e

end

/-- Settles O36: the receiver's rows move IDX and BUF alone, and the other instructions leave the block. -/
theorem roleIsChangedOnlyByReset : Obligations.RoleIsChangedOnlyByReset := by
  unfold Obligations.RoleIsChangedOnlyByReset
  intro i s t k hs hi e
  cases i with
  | frame | checksum8 | encode | decode | classify => exact returning_role hs e
  | frameStdPress | frameStdRelease | frameMacro | frameInvalidKc | frameBadsum | frameBadpre => exact frameRow_role hs e
  | byteSof | byteHuntDiscard | byteData | byteLast => exact byteRow_role hs rfl e
  | rxbyte b => exact onReceiver_role hs (rxByte_role b k) e
  | framedone => exact onReceiver_role hs rfl e
  | tickMaster | tickSlave => exact tick_role hs e
  | keyevtSlave | keyevtMaster => exact keyEvt_role hs e
  | reset r => exact absurd rfl (hi r)

/-! ## Diagnostics are transparent (R203) -/

/-- Running s appends actions to its trace on the way to t, and with any other trace in s it appends the same ones and ends in t but
for the trace. -/
def TraceBlind (run : State → Result) (s t : State) : Prop :=
  ∃ as : List Action, t.trace = s.trace ++ as ∧ ∀ tr, run { s with trace := tr } = .next { t with trace := tr ++ as }

theorem traceBlind_silent {run : State → Result} {s t : State} (htrace : t.trace = s.trace)
    (hrun : ∀ tr, run { s with trace := tr } = .next { t with trace := tr }) : TraceBlind run s t :=
  ⟨[], by rw [htrace, List.append_nil], fun tr => by rw [List.append_nil, hrun]⟩

/-- The schedule and the block decide what a step runs, and no instruction reads the trace (`recordsAreNeverRead`). -/
theorem step_traceBlind {s t : State} (e : step s = .next t) : TraceBlind step s t := by
  obtain ⟨hx, rfl⟩ | ⟨bs, rest, hx, rfl⟩ | ⟨i, x, rest, hx, hi, e⟩ := step_cases e
  · exact traceBlind_silent rfl fun _ => step_idle hx
  · exact traceBlind_silent rfl fun _ => step_arrive hx
  · obtain ⟨as, vs, htrace, hreturned, hinputs, hany⟩ := recordsAreNeverRead i (s.schedule rest) t e
    refine ⟨as, htrace, fun tr => ?_⟩
    calc step { s with trace := tr }
        = exec i { s.schedule rest with trace := tr } := step_instr hx hi
      _ = .next { t with trace := tr ++ as, returned := s.returned ++ vs, inputs := rest } := hany tr s.returned rest
      _ = .next { t with trace := tr ++ as } := by
        cases t; cases hreturned; cases hinputs; rfl

/-- A run that answers a next state answered one in its first step. -/
theorem exists_step_of_runSteps_succ {n : Nat} {s t : State} (e : runSteps (n + 1) s = .next t) :
    ∃ s₁, step s = .next s₁ ∧ runSteps n s₁ = .next t := by
  have hrun := Host.Core.run.eq_2 Sys2Proof.core s n
  cases hstep : step s with
  | next s₁ => exact ⟨s₁, rfl, (runSteps_succ hstep n).symm.trans e⟩
  | fault r => cases r
  | refused r =>
    rw [show Sys2Proof.core.step s = .refused r from hstep] at hrun
    cases hrun.symm.trans e

theorem runSteps_traceBlind {n : Nat} {s t : State} (e : runSteps n s = .next t) : TraceBlind (runSteps n) s t := by
  induction n generalizing s with
  | zero =>
    cases e
    exact traceBlind_silent rfl fun _ => runSteps_zero _
  | succ n ih =>
    obtain ⟨s₁, estep, erun⟩ := exists_step_of_runSteps_succ e
    obtain ⟨as, htrace, hstep⟩ := step_traceBlind estep
    obtain ⟨bs, htrace', hrun⟩ := ih erun
    refine ⟨as ++ bs, by rw [htrace', htrace, List.append_assoc], fun tr => ?_⟩
    rw [runSteps_succ (hstep tr), ← List.append_assoc]
    exact hrun (tr ++ as)

/-- Settles O40: both runs append the same actions to their traces (`runSteps_traceBlind`), so what is left of the traces without
diagnostics stays equal. -/
theorem diagnosticsAreTransparent : Obligations.DiagnosticsAreTransparent := by
  unfold Obligations.DiagnosticsAreTransparent
  intro n s t tr hfilter e
  obtain ⟨as, htrace, hrun⟩ := runSteps_traceBlind e
  exact ⟨tr ++ as, by rw [htrace, List.filter_append, List.filter_append, hfilter], hrun tr⟩

end Sys2Proof.Machine
end

section
/-! PROOFS of the family 70_reset_and_hazards.md: what RESET leaves and what it does not touch (R211). -/

namespace Sys2Proof.Machine

/-- Settles O1: RESET writes the block and the draw counter only (`exec_reset`), and a block at IDX 0 satisfies R23 b whatever BUF
holds. -/
theorem resetInstallsRoleAndClearsIndex : Obligations.ResetInstallsRoleAndClearsIndex := by
  unfold Obligations.ResetInstallsRoleAndClearsIndex
  intro r s
  exact ⟨freeBuf s.draws, s.draws + 1, exec_reset r s, Block.inv_of_idx_eq_zero rfl⟩

end Sys2Proof.Machine
end

section
/-! PROOFS of the family 'other': FRAMEDONE arm by arm (R157 to R162), the rows with operands outside their constraints (log entry 6),
and the link of a Slave and a Master (R198; 95_test_vectors.md section 5). -/

namespace Sys2Proof.Machine

/-! ## FRAMEDONE by DECODE and CLASSIFY (R157) -/

/-- A frame that decodes is dispatched as the key event it decodes to. -/
theorem frameActions_of_decodeFrame_ok {f : Frame} {c : Keycode} {p : Bool} (h : decodeFrame f = .ok c p) :
    frameActions f = (deliveredAction c p).toList := by
  simp only [frameActions, h, deliveredAction]
  cases classify c with
  | standardKey => cases p <;> rfl
  | remoteMacro n => rfl
  | invalid => rfl

theorem deliveredAction_of_standardKey {c : Keycode} (h : classify c = .standardKey) (p : Bool) :
    deliveredAction c p = some (if p then .assertKey c else .releaseKey c) := by
  rw [deliveredAction, h]

theorem deliveredAction_of_remoteMacro {c : Keycode} {n : Nat} (h : classify c = .remoteMacro n) (p : Bool) :
    deliveredAction c p = some (.raiseKeyEvent c p) := by
  rw [deliveredAction, h]

theorem deliveredAction_of_invalid {c : Keycode} (h : classify c = .invalid) (p : Bool) : deliveredAction c p = none := by
  rw [deliveredAction, h]

/-- Settles O22: FRAMEDONE emits `frameActions` of BUF, and each arm is one value of it. -/
theorem framedoneDispatchesByDecodeAndClass : Obligations.FramedoneDispatchesByDecodeAndClass := by
  unfold Obligations.FramedoneDispatchesByDecodeAndClass
  intro s k hs hr
  rw [exec_framedone_master hs hr]
  refine ⟨?badSum, ?badPreamble, ?press, ?release, ?band, ?invalid⟩
  case badSum =>
    intro hpre hsum
    rw [frameActions_badSum hpre hsum, frameSum]
  case badPreamble =>
    intro hpre
    rw [frameActions_badPreamble hpre]
  case press =>
    intro c hdec hc
    rw [frameActions_of_decodeFrame_ok hdec, deliveredAction_of_standardKey hc]
    rfl
  case release =>
    intro c hdec hc
    rw [frameActions_of_decodeFrame_ok hdec, deliveredAction_of_standardKey hc]
    rfl
  case band =>
    intro c p n hdec hc
    rw [frameActions_of_decodeFrame_ok hdec, deliveredAction_of_remoteMacro hc, Option.toList_some]
  case invalid =>
    intro c p hdec hc
    rw [frameActions_of_decodeFrame_ok hdec, deliveredAction_of_invalid hc, Option.toList_none, List.append_nil]

/-! ## Rows with any operands (log entry 6) -/

/-- Settles O29: the lemmas about BYTE and FRAME rows ask for no well-formed operands. -/
theorem rowsAlwaysMeanTheirBytes : Obligations.RowsAlwaysMeanTheirBytes := by
  unfold Obligations.RowsAlwaysMeanTheirBytes
  intro i s k hs
  exact ⟨fun b hb => exec_of_byteOfRow hb s, fun f hf hgen hr => exec_frameRow_master hs hr hf hgen⟩

/-! ## The link (R198) -/

/-- The bytes a Slave sends for one key event: a frame for a deliverable keycode, nothing otherwise (R153). -/
def keyEvtBytes (c : Keycode) (p : Bool) : List Byte :=
  if isDeliverable c then frameBytes (encodeFrame c p) else []

/-- The bytes a Slave sends for a list of key events, in order. -/
def sentBytes (events : List (Keycode × Bool)) : List Byte :=
  events.flatMap fun e => keyEvtBytes e.1 e.2

theorem sentBytes_cons (e : Keycode × Bool) (events : List (Keycode × Bool)) :
    sentBytes (e :: events) = keyEvtBytes e.1 e.2 ++ sentBytes events :=
  List.flatMap_cons

theorem keyEvt_slave_sends {s : State} {k : Block} (hs : s.block = some k) (hr : k.role = .slave) (c : Keycode) (p : Bool) :
    keyEvt c p s = .next (s.emit ((keyEvtBytes c p).map .tx)) := by
  rw [keyEvt_slave hs hr, keyEvtBytes]
  split <;> rfl

theorem step_schedule_keyEvt_slave {s : State} {k : Block} (hs : s.block = some k) (hr : k.role = .slave) (c : Keycode) (p : Bool)
    (rest : List Input) :
    step (s.schedule (.event (.keyEvt c p) :: rest)) = .next ((s.emit ((keyEvtBytes c p).map .tx)).schedule rest) :=
  (step_keyEvt (s := s.schedule (.event (.keyEvt c p) :: rest)) hs rfl).trans
    (keyEvt_slave_sends (s := s.schedule rest) hs hr c p)

/-- A Slave takes a list of key events by emitting their bytes, by induction on the list. -/
theorem runSteps_keyEvts_slave (events : List (Keycode × Bool)) {s : State} {k : Block} (hs : s.block = some k)
    (hr : k.role = .slave) :
    runSteps events.length (s.schedule (events.map fun e => .event (.keyEvt e.1 e.2))) =
      .next ((s.emit ((sentBytes events).map .tx)).schedule []) := by
  induction events generalizing s with
  | nil =>
    rw [sentBytes, List.flatMap_nil, List.map_nil, List.map_nil, State.emit_nil]
    exact runSteps_zero _
  | cons e events ih =>
    rw [List.length_cons, List.map_cons, runSteps_succ (step_schedule_keyEvt_slave hs hr e.1 e.2 _),
      ih (s := s.emit _) hs, State.emit_emit, ← List.map_append, ← sentBytes_cons]

/-- The TX stream of a trace that ends in transmitted bytes (R27). -/
theorem txBytes_append_map_tx (as : List Action) (bs : List Byte) : txBytes (as ++ bs.map .tx) = txBytes as ++ bs := by
  rw [txBytes, List.filterMap_append, List.filterMap_map]
  exact congrArg (txBytes as ++ ·) List.filterMap_some

/-- LINK over an unchanged channel carries over what the Slave has emitted since the last one (R81). -/
theorem transfer_id_master (sl ms : State) (bs : List Byte) (rest : List Input) :
    (Link.transfer id
      { slave := (sl.emit (bs.map .tx)).schedule rest, master := ms, carried := (txBytes sl.trace).length }).master =
        ms.receive bs := by
  rw [Link.transfer, State.schedule_trace, State.emit_trace, txBytes_append_map_tx, List.drop_left, id]

/-- From IDX = 0 the bytes of one key event make the receiver perform the event, if it is deliverable, and lead to IDX = 0 again. -/
theorem drain_keyEvtBytes (c : Keycode) (p : Bool) {k : Block} (h : k.idx = 0) :
    ∃ l, drain (keyEvtBytes c p) k = (l, (deliveredAction c p).toList) ∧ l.idx = 0 := by
  rw [keyEvtBytes]
  split
  next hd => exact ⟨{ k with buf := encodeFrame c p }, by rw [drain_frameBytes rfl h, frameActions_encodeFrame], h⟩
  next hd =>
    have hc : classify c = .invalid := not_not.1 (mt (isDeliverable_iff c).2 hd)
    exact ⟨k, by rw [deliveredAction_of_invalid hc]; rfl, h⟩

/-- The same for a list of key events, by induction on the list. -/
theorem drain_sentBytes (events : List (Keycode × Bool)) {k : Block} (h : k.idx = 0) :
    ∃ l, drain (sentBytes events) k = (l, events.filterMap fun e => deliveredAction e.1 e.2) ∧ l.idx = 0 := by
  induction events generalizing k with
  | nil => exact ⟨k, rfl, h⟩
  | cons e events ih =>
    obtain ⟨l, hl, hl0⟩ := drain_keyEvtBytes e.1 e.2 h
    obtain ⟨m, hm, hm0⟩ := ih hl0
    refine ⟨m, ?_, hm0⟩
    rw [sentBytes_cons, drain_append, hl, hm]
    simp only [List.filterMap_eq_flatMap_toList, List.flatMap_cons]

/-- Settles O50: the Slave emits the events' bytes (`runSteps_keyEvts_slave`), LINK brings exactly these to the Master
(`transfer_id_master`), and its Tick performs the events they were sent for (`drain_sentBytes`). -/
theorem linkDeliversExactlyTheDeliverableEvents : Obligations.LinkDeliversExactlyTheDeliverableEvents := by
  unfold Obligations.LinkDeliversExactlyTheDeliverableEvents
  intro events sl ms a b hsl ha hms hb hidx hq
  obtain ⟨l, hdrain, hl⟩ := drain_sentBytes events hidx
  have hlink : ms.receive (sentBytes events) = { ms with rxq := sentBytes events } := by
    rw [State.receive, hq, List.nil_append]
  have htick := exec_tickMaster hms hb hdrain
  rw [← hlink, ← transfer_id_master sl ms _ []] at htick
  exact ⟨_, _, runSteps_keyEvts_slave events hsl ha, htick, rfl, congrArg some hl⟩

end Sys2Proof.Machine
end
